-- ==== Sys2Proof/Word.lean ====
section
/-! DEFINITION. The word types of the SHA-1 core (spec/00_scope.md rules R10, R11): every datapath word is 32 bits,
every message byte 8 bits, and an offset inside the 256-byte register window 8 bits. All values are unsigned. -/

namespace Sys2Proof

/-- A datapath or bus word, WORD_BITS = 32 (R10). Bit 0 is the least significant (R11). -/
abbrev Word := BitVec 32

/-- A byte of a message in the host's memory (R16). -/
abbrev Byte := BitVec 8

/-- A byte offset inside the register window, 0x00 to 0xFF (R51). -/
abbrev Offset := BitVec 8

end Sys2Proof
end

