-- ==== Sys2Proof/Machine/Constants.lean ====
section
/-! DEFINITION. The algorithm's fixed constants: the initial values (spec/10_state.md R21) and the four round constants
(spec/43_compression_rounds.md R190, R195). -/

namespace Sys2Proof.Machine

/-- IV[0..4] (R21); the constants are numbers, whatever "big-endian semantics" suggests (spec/90_conflicts.md C3). -/
def iv : Vector Word 5 := #v[0x67452301#32, 0xEFCDAB89#32, 0x98BADCFE#32, 0x10325476#32, 0xC3D2E1F0#32]

/-- K_t (R195), ranges inclusive at both ends (spec/90_conflicts.md C4). -/
def roundConst (t : Nat) : Word :=
  if t ≤ 19 then 0x5A827999#32
  else if t ≤ 39 then 0x6ED9EBA1#32
  else if t ≤ 59 then 0x8F1BBCDC#32
  else 0xCA62C1D6#32

end Sys2Proof.Machine
end

