-- ==== Sys2Proof/Machine/Port.lean ====
section
/-! DEFINITION. The host port: one bus access, the items of the host's pending list, the two agents, and the
host-program lines of spec/30_encoding.md R86. The port is the block's only input (spec/20_memory.md R50, R58). -/

namespace Sys2Proof.Machine

/-- Direction of a bus access; a write carries its 32-bit data word (R16 BusRead, BusWrite). -/
inductive Direction where
  | read
  | write (v : Word)
  deriving DecidableEq, Repr

/-- One bus access at the window as the host issues it. `bits` is its width: the port admits only 32 (R54), but a host
can issue any width, so the width is data and the decoder refuses the others by name. -/
structure Access where
  offset : Offset
  bits   : Nat
  dir    : Direction
  deriving DecidableEq, Repr

/-- `BusRead(off)`: the admitted read (R16). -/
def Access.busRead (off : Offset) : Access := { offset := off, bits := 32, dir := .read }

/-- `BusWrite(off, v)`: the admitted write (R16). -/
def Access.busWrite (off : Offset) (v : Word) : Access := { offset := off, bits := 32, dir := .write v }

/-- What the world outside the block does next: an access, a polling loop of reads (R86), or an edge of the one reset
input (spec/70_reset_and_hazards.md R250). Host accesses take effect in issue order, one at a time (R58). -/
inductive HostItem where
  | access (a : Access)
  | poll (off : Offset) (mask val : Word)
  | resetAssert
  | resetDeassert
  deriving DecidableEq, Repr

/-- The two agents (R58): the host, whose steps are port accesses, and the engine, whose steps are rounds and fold. -/
inductive Agent where
  | host
  | engine
  deriving DecidableEq, Repr

/-- One line of a host program (R86): `sw OFF, VAL`, `lw OFF -> name`, `poll OFF, MASK, VAL`. -/
inductive HostOp where
  | sw (off : Offset) (v : Word)
  | lw (off : Offset)
  | poll (off : Offset) (mask val : Word)
  deriving DecidableEq, Repr

/-- The access or loop a line stands for (R86, "meaning" column). -/
def HostOp.toItem : HostOp → HostItem
  | .sw off v => .access (.busWrite off v)
  | .lw off => .access (.busRead off)
  | .poll off mask val => .poll off mask val

end Sys2Proof.Machine
end

