-- ==== Sys2Proof/Syntax.lean ====
section
/-! DEFINITION. The instructions: one constructor per row of spec/opcode_table.json. The block fetches no instruction stream;
its "instructions" are the three command words and the word reads and writes of its registers (spec/00_scope.md R3). -/

namespace Sys2Proof

/-- The rows of the opcode table: three command words (format CMD, R82), then the host port operations (format BUS, R85). -/
inductive Instr where
  /-- NOP: the command word 0x00000000 (R132). -/
  | nop
  /-- INIT: the command word 0x00000001 (R133). -/
  | init
  /-- COMPRESS: the command word 0x00000002 (R134). -/
  | compress
  /-- CMD_W: write of v at 0x00, decoded by R81. -/
  | cmdW (v : Word)
  /-- CMD_R: read at 0x00 (R143). -/
  | cmdR
  /-- STATUS_R: read at 0x04 (R141). -/
  | statusR
  /-- STATUS_W: write of v at 0x04 (R142). -/
  | statusW (v : Word)
  /-- H0_R: read at 0x10 (R137). -/
  | h0R
  /-- H0_W: write of v at 0x10 (R138). -/
  | h0W (v : Word)
  /-- H1_R: read at 0x14 (R137). -/
  | h1R
  /-- H1_W: write of v at 0x14 (R138). -/
  | h1W (v : Word)
  /-- H2_R: read at 0x18 (R137). -/
  | h2R
  /-- H2_W: write of v at 0x18 (R138). -/
  | h2W (v : Word)
  /-- H3_R: read at 0x1C (R137). -/
  | h3R
  /-- H3_W: write of v at 0x1C (R138). -/
  | h3W (v : Word)
  /-- H4_R: read at 0x20 (R137). -/
  | h4R
  /-- H4_W: write of v at 0x20 (R138). -/
  | h4W (v : Word)
  /-- MSG0_R: read at 0x40 (R139). -/
  | msg0R
  /-- MSG0_W: write of v at 0x40 (R140). -/
  | msg0W (v : Word)
  /-- MSG1_R: read at 0x44 (R139). -/
  | msg1R
  /-- MSG1_W: write of v at 0x44 (R140). -/
  | msg1W (v : Word)
  /-- MSG2_R: read at 0x48 (R139). -/
  | msg2R
  /-- MSG2_W: write of v at 0x48 (R140). -/
  | msg2W (v : Word)
  /-- MSG3_R: read at 0x4C (R139). -/
  | msg3R
  /-- MSG3_W: write of v at 0x4C (R140). -/
  | msg3W (v : Word)
  /-- MSG4_R: read at 0x50 (R139). -/
  | msg4R
  /-- MSG4_W: write of v at 0x50 (R140). -/
  | msg4W (v : Word)
  /-- MSG5_R: read at 0x54 (R139). -/
  | msg5R
  /-- MSG5_W: write of v at 0x54 (R140). -/
  | msg5W (v : Word)
  /-- MSG6_R: read at 0x58 (R139). -/
  | msg6R
  /-- MSG6_W: write of v at 0x58 (R140). -/
  | msg6W (v : Word)
  /-- MSG7_R: read at 0x5C (R139). -/
  | msg7R
  /-- MSG7_W: write of v at 0x5C (R140). -/
  | msg7W (v : Word)
  /-- MSG8_R: read at 0x60 (R139). -/
  | msg8R
  /-- MSG8_W: write of v at 0x60 (R140). -/
  | msg8W (v : Word)
  /-- MSG9_R: read at 0x64 (R139). -/
  | msg9R
  /-- MSG9_W: write of v at 0x64 (R140). -/
  | msg9W (v : Word)
  /-- MSG10_R: read at 0x68 (R139). -/
  | msg10R
  /-- MSG10_W: write of v at 0x68 (R140). -/
  | msg10W (v : Word)
  /-- MSG11_R: read at 0x6C (R139). -/
  | msg11R
  /-- MSG11_W: write of v at 0x6C (R140). -/
  | msg11W (v : Word)
  /-- MSG12_R: read at 0x70 (R139). -/
  | msg12R
  /-- MSG12_W: write of v at 0x70 (R140). -/
  | msg12W (v : Word)
  /-- MSG13_R: read at 0x74 (R139). -/
  | msg13R
  /-- MSG13_W: write of v at 0x74 (R140). -/
  | msg13W (v : Word)
  /-- MSG14_R: read at 0x78 (R139). -/
  | msg14R
  /-- MSG14_W: write of v at 0x78 (R140). -/
  | msg14W (v : Word)
  /-- MSG15_R: read at 0x7C (R139). -/
  | msg15R
  /-- MSG15_W: write of v at 0x7C (R140). -/
  | msg15W (v : Word)
  /-- RSVD_R: read at a reserved offset (R53). -/
  | rsvdR (off : Offset)
  /-- RSVD_W: write of v at a reserved offset (R53). -/
  | rsvdW (off : Offset) (v : Word)
  deriving DecidableEq, Repr

end Sys2Proof
end

