-- ==== Sys2Proof/Machine/State.lean ====
section
/-! DEFINITION. The machine's state: the block, exactly the record of spec/10_state.md R20 ("nothing else is state"), and around it
the port and what the outside world will do (spec/20_memory.md R58, spec/70_reset_and_hazards.md R250), which are the
model's own plain data. -/

namespace Sys2Proof.Machine

/-- The working registers A, B, C, D, E (R25). -/
structure Work where
  a : Word
  b : Word
  c : Word
  d : Word
  e : Word
  deriving DecidableEq, Repr

/-- The complete state of the block (R20). -/
structure Block where
  /-- H[0..4], the digest state (R22). -/
  h : Vector Word 5
  /-- MSG[0..15], the message block and the expander's window (R23). -/
  msg : Vector Word 16
  /-- MVALID, one bit per window word (R24). -/
  mvalid : BitVec 16
  /-- BUSY: a COMPRESS is in progress (R27). -/
  busy : Bool
  /-- ERR_CMD, STATUS bit 8 (R28, R222). -/
  errCmd : Bool
  /-- ERR_BUSY, STATUS bit 9 (R28, R223). -/
  errBusy : Bool
  /-- ERR_INCOMPLETE, STATUS bit 10 (R28, R224). -/
  errIncomplete : Bool
  /-- A..E (R25). -/
  work : Work
  /-- RND, a 7-bit counter taking the values 0..80 (R20, R26). -/
  rnd : BitVec 7
  deriving DecidableEq, Repr

/-- The three interface errors (R221). -/
inductive IfaceError where
  | cmd
  | busy
  | incomplete
  deriving DecidableEq, Repr

/-- The block and its surroundings. Every field after `block` is the model's own: the spec gives the block no such state. -/
structure State where
  block : Block
  /-- The reset input is asserted (R250). -/
  inReset : Bool
  /-- The word the port returned at the latest read (R55, notes/assumptions/1.md). -/
  rdata : Word
  /-- How many free draws have been made: the argument of the next one (R255, notes/assumptions/2.md). -/
  draws : Nat
  /-- Which agent moves at each coming step while BUSY = 1: the interleaving, as plain data (R58, notes/assumptions/3.md). -/
  schedule : List Agent
  /-- What the outside world will do, in issue order (R58). -/
  pending : List HostItem
  /-- The words the host's `lw` lines have read so far, oldest first (R86). -/
  reads : List Word
  deriving DecidableEq, Repr

/-- Reasons the machine stops. -/
inductive Fault where
  /-- Raised by an engine step when BUSY = 1 and RND is 81..127, where no rule gives the engine a step (R196, R198). RND "never
  passes 80" (R26), so no run reaches it. Safe: it is a stuck state. -/
  | noEngineStep
  deriving DecidableEq, Repr

/-- Reasons the model gives an input no meaning. -/
inductive Refusal where
  /-- An instruction whose meaning is not written yet. Safe. No arm uses it. -/
  | notModelled (mnemonic : String)
  /-- The host made an access that is not of 32 bits: "a model must refuse it" (R54). Raised by the host's step. Safe. -/
  | accessWidth (bits : Nat)
  /-- The host made an access at an offset that is not a multiple of 4: "a model must refuse it" (R54). Raised by the host's
  step. Safe. -/
  | misaligned (off : Offset)
  /-- The host made an access while reset is asserted: "a model refuses an access during reset" (R250). Raised by the host's
  step. Safe. -/
  | duringReset
  deriving DecidableEq, Repr

/-- Every piece of the block's state after reset (R32). -/
def Block.reset : Block where
  h := iv
  msg := Vector.replicate 16 0#32
  mvalid := 0#16
  busy := false
  errCmd := false
  errBusy := false
  errIncomplete := false
  work := { a := 0#32, b := 0#32, c := 0#32, d := 0#32, e := 0#32 }
  rnd := 0#7

/-- The machine right after reset is deasserted (R32, R250), with nothing pending outside; the model's own fields hold the values
of notes/assumptions/1.md to 3.md. -/
def State.reset : State where
  block := Block.reset
  inReset := false
  rdata := 0#32
  draws := 0
  schedule := []
  pending := []
  reads := []

end Sys2Proof.Machine
end

