-- ==== Sys2Proof/Machine/Flags.lean ====
section
/-! DEFINITION. STATUS (spec/10_state.md R28, spec/41_commands.md R141) and MVALID (R24): how the flags are packed, tested and set. -/

namespace Sys2Proof.Machine

/-- A flag as the low bit of a word. -/
def flagWord (b : Bool) : Word := (BitVec.ofBool b).setWidth 32

/-- STATUS as read: `MVALID << 16 or ERR_INCOMPLETE << 10 or ERR_BUSY << 9 or ERR_CMD << 8 or BUSY` (R141). Reserved bits read
as 0 (R28). -/
def Block.status (b : Block) : Word :=
  (b.mvalid.setWidth 32 <<< 16) ||| (flagWord b.errIncomplete <<< 10) ||| (flagWord b.errBusy <<< 9)
    ||| (flagWord b.errCmd <<< 8) ||| flagWord b.busy

/-- The mask with all sixteen window words valid, the condition of COMPRESS (R24, R134). -/
def mvalidFull : BitVec 16 := 0xFFFF#16

/-- MVALID[j] <- 1 (R140). -/
def markValid (mvalid : BitVec 16) (j : Fin 16) : BitVec 16 := mvalid ||| (1#16 <<< j.val)

end Sys2Proof.Machine
end

