-- ==== Sys2Proof/Machine/Operands.lean ====
section
/-! DEFINITION. The operand forms (spec/30_encoding.md R80, R83): which bits of a bus data word an access uses. Writes of H and
MSG use all 32 bits unchanged, a command word splits into OP and RSVD, a STATUS write uses bits 8, 9 and 10, and a reserved
write uses none. -/

namespace Sys2Proof.Machine

/-- OP, bits 3:0 of a command word (R80). -/
def opField (v : Word) : BitVec 4 := v.extractLsb 3 0

/-- RSVD, bits 31:4 of a command word, "must be zero" (R80). -/
def rsvdField (v : Word) : BitVec 28 := v.extractLsb 31 4

/-- Bit 8 of a STATUS write: clear ERR_CMD (R142). -/
def clearsErrCmd (v : Word) : Bool := v.getLsbD 8

/-- Bit 9 of a STATUS write: clear ERR_BUSY (R142). -/
def clearsErrBusy (v : Word) : Bool := v.getLsbD 9

/-- Bit 10 of a STATUS write: clear ERR_INCOMPLETE (R142). -/
def clearsErrIncomplete (v : Word) : Bool := v.getLsbD 10

end Sys2Proof.Machine
end

