-- ==== Sys2Proof/Config.lean ====
section
/-! DEFINITION. What the spec leaves open: the free draw of a MSG read while busy (spec/70_reset_and_hazards.md R255)
and the platform's base address of the window (spec/20_memory.md R51). Neither has a body, so no proof can see a value.
The spec's other two open parameters, T_COMPRESS and RESET_PROTOCOL, are clock-level and have no place in a model
whose steps are accesses and engine steps (R258, R250; NOTES.md, Scope). -/

namespace Sys2Proof.Config

/-- The word the n-th MSG read made while BUSY = 1 returns: "a free 32-bit draw, under no law" (R139, R255).
The step applies it to the plain counter `State.draws` (notes/assumptions/2.md). -/
opaque freeDraw : Nat → Word

/-- SHA1_BASE divided by 256; SHA1_BASE is an open parameter that "is a multiple of 256" (R51). -/
opaque sha1BasePage : Nat

end Sys2Proof.Config
end

