-- ==== Sys2Proof/Machine/RegMap.lean ====
section
/-! DEFINITION. The register map of the window (spec/20_memory.md R51, R52) and where the window lies on the bus. -/

namespace Sys2Proof.Machine

/-- Offset of H[i] is 0x10 + 4i (R52). -/
def hOffset (i : Fin 5) : Offset := BitVec.ofNat 8 (0x10 + 4 * i.val)

/-- Offset of MSG[j] is 0x40 + 4j (R52). -/
def msgOffset (j : Fin 16) : Offset := BitVec.ofNat 8 (0x40 + 4 * j.val)

/-- A word slot of the window: a multiple of 4 (R51, R54). -/
def isAligned (o : Offset) : Bool := o.toNat % 4 == 0

/-- The reserved word slots 0x08, 0x0C, 0x24..0x3C and 0x80..0xFC (R52; the rows RSVD_R and RSVD_W list them). -/
def isReserved (o : Offset) : Bool :=
  isAligned o &&
    (o == 0x08#8 || o == 0x0C#8 || (decide (0x24 ≤ o.toNat) && decide (o.toNat ≤ 0x3C)) || decide (0x80 ≤ o.toNat))

/-- SHA1_BASE, "a multiple of 256" (R51). -/
def sha1Base : Nat := 256 * Config.sha1BasePage

/-- The bus address of a window offset; "offsets in this spec are relative to SHA1_BASE" (R51). -/
def busAddress (o : Offset) : Nat := sha1Base + o.toNat

/-- The offset a bus address selects: the window is SHA1_BASE to SHA1_BASE + 0xFF, and any other address is no access to
the block (R50, R51). -/
def offsetOfBusAddress (addr : Nat) : Option Offset :=
  if sha1Base ≤ addr ∧ addr ≤ sha1Base + 0xFF then some (BitVec.ofNat 8 (addr - sha1Base)) else none

end Sys2Proof.Machine
end

