-- ==== Sys2Proof/Machine/Bits.lean ====
section
/-! DEFINITION. Bit-field and byte-order helpers: the rotation (spec/00_scope.md R14), the big-endian byte helpers (R17) and hex
digits (spec/40_host_padding.md R109, spec/30_encoding.md R86). -/

namespace Sys2Proof.Machine

/-- ROTL(x, n) = (x << n) or (x >> (32 - n)), for 1 <= n <= 31 (R14); only 1, 5 and 30 occur. -/
def rotl (x : Word) (n : Nat) : Word := (x <<< n) ||| (x >>> (32 - n))

/-- Byte k of a byte sequence (R16); 0 beyond its end, which no rule reads. -/
def byteAt (m : List Byte) (k : Nat) : Byte := m.getD k 0#8

/-- be32(m, k): the word whose most significant byte is m[k] (R17). -/
def be32 (m : List Byte) (k : Nat) : Word :=
  ((byteAt m k).setWidth 32 <<< 24) ||| ((byteAt m (k + 1)).setWidth 32 <<< 16)
    ||| ((byteAt m (k + 2)).setWidth 32 <<< 8) ||| (byteAt m (k + 3)).setWidth 32

/-- bytes_be(v, n): the n-byte sequence whose first byte holds the most significant 8 bits (R17). -/
def bytesBe (v : Nat) : Nat → List Byte
  | 0 => []
  | n + 1 => BitVec.ofNat 8 (v / 256 ^ n) :: bytesBe v n

/-- The last n hex digits of v, most significant first, each written by `digit`. -/
def hexDigits (digit : Nat → Char) (v : Nat) : Nat → List Char
  | 0 => []
  | n + 1 => digit (v / 16 ^ n % 16) :: hexDigits digit v n

/-- The digits 0123456789abcdef (R109). -/
def lowerHexDigit (n : Nat) : Char :=
  ['0', '1', '2', '3', '4', '5', '6', '7', '8', '9', 'a', 'b', 'c', 'd', 'e', 'f'].getD n '0'

/-- The digits of a program listing, as spec/95_test_vectors.md section 6 writes them. -/
def upperHexDigit (n : Nat) : Char :=
  ['0', '1', '2', '3', '4', '5', '6', '7', '8', '9', 'A', 'B', 'C', 'D', 'E', 'F'].getD n '0'

/-- The value of a hex digit of either case. -/
def hexValue (c : Char) : Option Nat :=
  if 48 ≤ c.toNat ∧ c.toNat ≤ 57 then some (c.toNat - 48)
  else if 65 ≤ c.toNat ∧ c.toNat ≤ 70 then some (c.toNat - 55)
  else if 97 ≤ c.toNat ∧ c.toNat ≤ 102 then some (c.toNat - 87)
  else none

end Sys2Proof.Machine
end

