-- ==== Sys2Proof/Machine/Rounds.lean ====
section
/-! DEFINITION. The compression engine's arithmetic (spec/43_compression_rounds.md): the round functions, one round, the fold's sums.
Every addition is modulo 2^32 (spec/00_scope.md R12, R201). -/

namespace Sys2Proof.Machine

/-- Rounds 0..19 (R191). -/
def choose (b c d : Word) : Word := (b &&& c) ||| (~~~b &&& d)

/-- Rounds 20..39 and 60..79 (R192, R194). -/
def parity (b c d : Word) : Word := b ^^^ c ^^^ d

/-- Rounds 40..59 (R193). -/
def majority (b c d : Word) : Word := (b &&& c) ||| (b &&& d) ||| (c &&& d)

/-- f_t, selected by inclusive ranges of t (R190, spec/90_conflicts.md C4). -/
def roundFn (t : Nat) (b c d : Word) : Word :=
  if t ≤ 19 then choose b c d
  else if t ≤ 39 then parity b c d
  else if t ≤ 59 then majority b c d
  else parity b c d

/-- The working registers seeded from the digest state (R135). -/
def Work.seed (h : Vector Word 5) : Work := { a := h[0], b := h[1], c := h[2], d := h[3], e := h[4] }

/-- Round t with schedule word wt (R196): all right-hand sides are taken before the assignment. -/
def Work.round (t : Nat) (wt : Word) (x : Work) : Work where
  a := rotl x.a 5 + roundFn t x.b x.c x.d + x.e + roundConst t + wt
  b := x.a
  c := rotl x.b 30
  d := x.c
  e := x.d

/-- The five sums of the fold (R198). -/
def foldSum (h : Vector Word 5) (x : Work) : Vector Word 5 :=
  #v[h[0] + x.a, h[1] + x.b, h[2] + x.c, h[3] + x.d, h[4] + x.e]

/-- Rounds 0..n-1 over a schedule, in order (R197). -/
def rounds (w : Nat → Word) : Nat → Work → Work
  | 0, x => x
  | n + 1, x => (rounds w n x).round n (w n)

end Sys2Proof.Machine
end

