-- ==== Sys2Proof/Machine/Ops.lean ====
section
/-! DEFINITION. The named operations the meanings share: raising an interface error, which is all the error entry there is
(spec/60_exceptions.md R226), its return, the write-1-to-clear of STATUS (R227), the idle guard (R223), the register reads and
writes, and loading the reset values (spec/10_state.md R32). -/

namespace Sys2Proof.Machine

/-- `raise ERR_X`: "set the STATUS bit ERR_X to 1 and perform no other part of the access that raised it" (spec/00_scope.md R16,
R226). No trap, no vector, no saved state. -/
def Block.raise (b : Block) : IfaceError → Block
  | .cmd => { b with errCmd := true }
  | .busy => { b with errBusy := true }
  | .incomplete => { b with errIncomplete := true }

/-- The return from an error: a STATUS write clears the error bits written with 1 and nothing else (R142, R227). -/
def Block.clearErrors (b : Block) (v : Word) : Block where
  h := b.h
  msg := b.msg
  mvalid := b.mvalid
  busy := b.busy
  errCmd := if clearsErrCmd v then false else b.errCmd
  errBusy := if clearsErrBusy v then false else b.errBusy
  errIncomplete := if clearsErrIncomplete v then false else b.errIncomplete
  work := b.work
  rnd := b.rnd

/-- A write to CMD, H or MSG: dropped with ERR_BUSY while busy, otherwise `f` (R223). -/
def Block.whenIdle (b : Block) (f : Block → Block) : Block := if b.busy then b.raise .busy else f b

/-- H[i] <- v. -/
def Block.setDigest (b : Block) (i : Fin 5) (v : Word) : Block := { b with h := b.h.set i v }

/-- MSG[j] <- v; MVALID[j] <- 1 (R140). -/
def Block.setWindow (b : Block) (j : Fin 16) (v : Word) : Block :=
  { b with msg := b.msg.set j v, mvalid := markValid b.mvalid j }

/-- An access that only writes the block. -/
def onBlock (f : Block → Block) (s : State) : Host.Outcome State Fault Refusal :=
  .next { s with block := f s.block }

/-- A read that returns v and changes no state of the block (R55). -/
def respond (v : Word) (s : State) : Host.Outcome State Fault Refusal := .next { s with rdata := v }

/-- A read the spec gives no value: the next free draw (R255). -/
def respondFree (s : State) : Host.Outcome State Fault Refusal :=
  .next { s with rdata := Config.freeDraw s.draws, draws := s.draws + 1 }

/-- Read H[i], at any time (R137). -/
def readDigest (i : Fin 5) (s : State) : Host.Outcome State Fault Refusal := respond s.block.h[i] s

/-- Write H[i] (R138). -/
def writeDigest (i : Fin 5) (v : Word) (s : State) : Host.Outcome State Fault Refusal :=
  onBlock (fun b => b.whenIdle (fun b => b.setDigest i v)) s

/-- Read MSG[j]: the slot when idle, a free draw when busy (R139). -/
def readWindow (j : Fin 16) (s : State) : Host.Outcome State Fault Refusal :=
  if s.block.busy then respondFree s else respond s.block.msg[j] s

/-- Write MSG[j] (R140). -/
def writeWindow (j : Fin 16) (v : Word) (s : State) : Host.Outcome State Fault Refusal :=
  onBlock (fun b => b.whenIdle (fun b => b.setWindow j v)) s

/-- The reset event's effect on the block: every piece of state at its value of R32; a COMPRESS in progress is abandoned (R250). -/
def State.loadReset (s : State) : State := { s with block := Block.reset }

end Sys2Proof.Machine
end

