-- ==== Sys2Proof/Machine/Schedule.lean ====
section
/-! DEFINITION. The message-schedule expander (spec/42_schedule_expander.md): the 80-word schedule (R171), the sliding window that
computes it in place (R172, R173), and the compression function over it (spec/43_compression_rounds.md R199). -/

namespace Sys2Proof.Machine

/-- The word after a schedule written so far: ROTL(w[t-3] xor w[t-8] xor w[t-14] xor w[t-16], 1) for t its length (R171). -/
def nextScheduleWord (ws : List Word) : Word :=
  rotl (ws.getD (ws.length - 3) 0#32 ^^^ ws.getD (ws.length - 8) 0#32 ^^^ ws.getD (ws.length - 14) 0#32
    ^^^ ws.getD (ws.length - 16) 0#32) 1

/-- The first 16 + n schedule words of the block m (R171). -/
def expand (m : Vector Word 16) : Nat → List Word
  | 0 => m.toList
  | n + 1 => expand m n ++ [nextScheduleWord (expand m n)]

/-- w[t], the schedule word of round t (R171). -/
def scheduleWord (m : Vector Word 16) (t : Nat) : Word := (expand m (t - 15)).getD t 0#32

/-- The window update of round t, 16 <= t <= 79 (R173): the slot of w[t-16] is overwritten with w[t]. -/
def updateWindow (msg : Vector Word 16) (t : Nat) : Vector Word 16 :=
  msg.set (t % 16)
    (rotl (msg[(t - 3) % 16] ^^^ msg[(t - 8) % 16] ^^^ msg[(t - 14) % 16] ^^^ msg[t % 16]) 1)

/-- The window as round t uses it: unchanged in rounds 0..15 (R172), updated from round 16 on (R173, R196). -/
def windowForRound (msg : Vector Word 16) (t : Nat) : Vector Word 16 :=
  if 16 ≤ t then updateWindow msg t else msg

/-- The window after the first n rounds from the block m. -/
def windowAfter (m : Vector Word 16) : Nat → Vector Word 16
  | 0 => m
  | n + 1 => windowForRound (windowAfter m n) n

/-- compress(h, m) (R199). -/
def compress (h : Vector Word 5) (m : Vector Word 16) : Vector Word 5 :=
  foldSum h (rounds (scheduleWord m) 80 (Work.seed h))

end Sys2Proof.Machine
end

