-- ==== Sys2Proof/Machine/Engine.lean ====
section
/-! DEFINITION. The engine's steps (spec/43_compression_rounds.md R196 to R198): one step per round, then the fold. -/

namespace Sys2Proof.Machine

/-- Round t = RND (R196): the window is updated first when t >= 16, the round uses w[t] = MSG[t mod 16], RND <- t + 1. -/
def Block.engineRound (b : Block) : Block :=
  { b with
    msg := windowForRound b.msg b.rnd.toNat
    work := b.work.round b.rnd.toNat ((windowForRound b.msg b.rnd.toNat)[b.rnd.toNat % 16])
    rnd := b.rnd + 1#7 }

/-- The fold (R198): H accumulates, MVALID and BUSY clear, all in one step; A..E, RND and MSG are not changed. -/
def Block.fold (b : Block) : Block :=
  { b with h := foldSum b.h b.work, mvalid := 0#16, busy := false }

/-- The engine's next step while BUSY = 1: round RND when RND <= 79, the fold when RND = 80 (R26). No rule gives it a step for a
larger RND. -/
def engineStep (s : State) : Host.Outcome State Fault Refusal :=
  if s.block.rnd.toNat ≤ 79 then .next { s with block := s.block.engineRound }
  else if s.block.rnd.toNat = 80 then .next { s with block := s.block.fold }
  else .fault .noEngineStep

end Sys2Proof.Machine
end

