-- ==== Sys2Proof/WellFormed.lean ====
section
/-! DEFINITION. Well-formed instructions: the rows RSVD_R and RSVD_W carry one of the offsets the table lists as reserved
(spec/20_memory.md R52, R53). No other row has an operand with an illegal value: no command carries an operand, and every
32-bit data word is legal (spec/30_encoding.md R83). -/

namespace Sys2Proof

/-- The instruction's operands are ones the opcode table admits. -/
def Instr.wf : Instr → Bool
  | .nop | .init | .compress | .cmdW _ | .cmdR | .statusR | .statusW _ | .h0R
  | .h0W _ | .h1R | .h1W _ | .h2R | .h2W _ | .h3R | .h3W _ | .h4R
  | .h4W _ | .msg0R | .msg0W _ | .msg1R | .msg1W _ | .msg2R | .msg2W _ | .msg3R
  | .msg3W _ | .msg4R | .msg4W _ | .msg5R | .msg5W _ | .msg6R | .msg6W _ | .msg7R
  | .msg7W _ | .msg8R | .msg8W _ | .msg9R | .msg9W _ | .msg10R | .msg10W _ | .msg11R
  | .msg11W _ | .msg12R | .msg12W _ | .msg13R | .msg13W _ | .msg14R | .msg14W _ | .msg15R
  | .msg15W _ => true
  | .rsvdR off => Machine.isReserved off
  | .rsvdW off _ => Machine.isReserved off

end Sys2Proof
end

