-- ==== Sys2Proof/Decode.lean ====
section
/-! DEFINITION. The decoder, total on every encoded form, and the encoder written from the same tables: the opcode map of command
words (spec/30_encoding.md R80 to R84) and the table of host port operations (R85). The block has no instruction memory and
no byte form of an access: an encoded instruction is either a command word or a bus access (notes/assumptions/4.md). -/

namespace Sys2Proof

open Sys2Proof.Machine (Access Direction)

/-- The two formats of the opcode table: CMD, a 32-bit command word, and BUS, a port access. -/
inductive Encoded where
  | cmd (w : Word)
  | bus (a : Access)
  deriving DecidableEq, Repr

/-- Why an encoded form stands for no instruction. -/
inductive DecodeError where
  /-- An access of 8 or 16 bits, or wider than 32 bits, or any other width but 32 (R54). -/
  | accessWidth (bits : Nat)
  /-- A 32-bit access at an offset that is not a multiple of 4 (R54). -/
  | misaligned (off : Offset)
  /-- A word that is no command: RSVD not zero, or OP in 0x3..0xF (R84). The write of such a word is still the
  instruction CMD_W, which raises ERR_CMD. -/
  | illegalCommand (w : Word)
  deriving DecidableEq, Repr

/-- The opcode map of command words (R81, R82): "the exact 32-bit word is the only spelling of each". -/
def decodeCommand (v : Word) : Except DecodeError Instr :=
  if Machine.rsvdField v ≠ 0#28 then .error (.illegalCommand v)
  else if Machine.opField v = 0x0#4 then .ok .nop
  else if Machine.opField v = 0x1#4 then .ok .init
  else if Machine.opField v = 0x2#4 then .ok .compress
  else .error (.illegalCommand v)

/-- The read rows of R85; an aligned offset named by no other row is reserved (R52). -/
def decodeRead (o : Offset) : Instr :=
  match o.toNat with
  | 0x00 => .cmdR
  | 0x04 => .statusR
  | 0x10 => .h0R
  | 0x14 => .h1R
  | 0x18 => .h2R
  | 0x1C => .h3R
  | 0x20 => .h4R
  | 0x40 => .msg0R
  | 0x44 => .msg1R
  | 0x48 => .msg2R
  | 0x4C => .msg3R
  | 0x50 => .msg4R
  | 0x54 => .msg5R
  | 0x58 => .msg6R
  | 0x5C => .msg7R
  | 0x60 => .msg8R
  | 0x64 => .msg9R
  | 0x68 => .msg10R
  | 0x6C => .msg11R
  | 0x70 => .msg12R
  | 0x74 => .msg13R
  | 0x78 => .msg14R
  | 0x7C => .msg15R
  | _ => .rsvdR o

/-- The write rows of R85. -/
def decodeWrite (o : Offset) (v : Word) : Instr :=
  match o.toNat with
  | 0x00 => .cmdW v
  | 0x04 => .statusW v
  | 0x10 => .h0W v
  | 0x14 => .h1W v
  | 0x18 => .h2W v
  | 0x1C => .h3W v
  | 0x20 => .h4W v
  | 0x40 => .msg0W v
  | 0x44 => .msg1W v
  | 0x48 => .msg2W v
  | 0x4C => .msg3W v
  | 0x50 => .msg4W v
  | 0x54 => .msg5W v
  | 0x58 => .msg6W v
  | 0x5C => .msg7W v
  | 0x60 => .msg8W v
  | 0x64 => .msg9W v
  | 0x68 => .msg10W v
  | 0x6C => .msg11W v
  | 0x70 => .msg12W v
  | 0x74 => .msg13W v
  | 0x78 => .msg14W v
  | 0x7C => .msg15W v
  | _ => .rsvdW o v

/-- A bus access (R54, R85): only a 32-bit access at a multiple of 4 has a row. -/
def decodeAccess (a : Access) : Except DecodeError Instr :=
  if a.bits ≠ 32 then .error (.accessWidth a.bits)
  else if Machine.isAligned a.offset = false then .error (.misaligned a.offset)
  else
    match a.dir with
    | .read => .ok (decodeRead a.offset)
    | .write v => .ok (decodeWrite a.offset v)

/-- The decoder of both formats. -/
def decode : Encoded → Except DecodeError Instr
  | .cmd w => decodeCommand w
  | .bus a => decodeAccess a

/-- The instruction an access performs: the row of its direction and offset, and for a CMD write of a command word that command
("command write, decoded by rule R81 into the CMD rows", the table's note on CMD_W). -/
def accessInstr (a : Access) : Except DecodeError Instr :=
  match decodeAccess a with
  | .ok (.cmdW v) =>
    match decodeCommand v with
    | .ok command => .ok command
    | .error _ => .ok (.cmdW v)
  | r => r

/-- The encoder: each row's command word (R82) or its direction and offset (R85). -/
def encode : Instr → Encoded
  | .nop => .cmd 0x00000000#32
  | .init => .cmd 0x00000001#32
  | .compress => .cmd 0x00000002#32
  | .cmdW v => .bus (.busWrite 0x00#8 v)
  | .cmdR => .bus (.busRead 0x00#8)
  | .statusR => .bus (.busRead 0x04#8)
  | .statusW v => .bus (.busWrite 0x04#8 v)
  | .h0R => .bus (.busRead 0x10#8)
  | .h0W v => .bus (.busWrite 0x10#8 v)
  | .h1R => .bus (.busRead 0x14#8)
  | .h1W v => .bus (.busWrite 0x14#8 v)
  | .h2R => .bus (.busRead 0x18#8)
  | .h2W v => .bus (.busWrite 0x18#8 v)
  | .h3R => .bus (.busRead 0x1C#8)
  | .h3W v => .bus (.busWrite 0x1C#8 v)
  | .h4R => .bus (.busRead 0x20#8)
  | .h4W v => .bus (.busWrite 0x20#8 v)
  | .msg0R => .bus (.busRead 0x40#8)
  | .msg0W v => .bus (.busWrite 0x40#8 v)
  | .msg1R => .bus (.busRead 0x44#8)
  | .msg1W v => .bus (.busWrite 0x44#8 v)
  | .msg2R => .bus (.busRead 0x48#8)
  | .msg2W v => .bus (.busWrite 0x48#8 v)
  | .msg3R => .bus (.busRead 0x4C#8)
  | .msg3W v => .bus (.busWrite 0x4C#8 v)
  | .msg4R => .bus (.busRead 0x50#8)
  | .msg4W v => .bus (.busWrite 0x50#8 v)
  | .msg5R => .bus (.busRead 0x54#8)
  | .msg5W v => .bus (.busWrite 0x54#8 v)
  | .msg6R => .bus (.busRead 0x58#8)
  | .msg6W v => .bus (.busWrite 0x58#8 v)
  | .msg7R => .bus (.busRead 0x5C#8)
  | .msg7W v => .bus (.busWrite 0x5C#8 v)
  | .msg8R => .bus (.busRead 0x60#8)
  | .msg8W v => .bus (.busWrite 0x60#8 v)
  | .msg9R => .bus (.busRead 0x64#8)
  | .msg9W v => .bus (.busWrite 0x64#8 v)
  | .msg10R => .bus (.busRead 0x68#8)
  | .msg10W v => .bus (.busWrite 0x68#8 v)
  | .msg11R => .bus (.busRead 0x6C#8)
  | .msg11W v => .bus (.busWrite 0x6C#8 v)
  | .msg12R => .bus (.busRead 0x70#8)
  | .msg12W v => .bus (.busWrite 0x70#8 v)
  | .msg13R => .bus (.busRead 0x74#8)
  | .msg13W v => .bus (.busWrite 0x74#8 v)
  | .msg14R => .bus (.busRead 0x78#8)
  | .msg14W v => .bus (.busWrite 0x78#8 v)
  | .msg15R => .bus (.busRead 0x7C#8)
  | .msg15W v => .bus (.busWrite 0x7C#8 v)
  | .rsvdR off => .bus (.busRead off)
  | .rsvdW off v => .bus (.busWrite off v)

/-- The encoded form the opcode table's bits stand for: a 32-bit row is a command word; a shorter row is a bus row, whose
eight table bits are the offset. The table gives a bus row no bit for its direction, so a bus row's bits alone are read as
the read of that offset (notes/assumptions/5.md). -/
def tableForm (nbits w : Nat) : Encoded :=
  if nbits = 32 then .cmd (BitVec.ofNat 32 w) else .bus (.busRead (BitVec.ofNat 8 w))

/-- The instruction the decoder reads from a table row's bits. -/
def decodeTableWord (nbits w : Nat) : Option Instr :=
  match decode (tableForm nbits w) with
  | .ok i => some i
  | .error _ => none

/-- The bus access that delivers an encoded form to the block: a command word acts "when its CMD write is accepted" (R63),
so it is a write at offset 0x00. -/
def Encoded.toAccess : Encoded → Access
  | .cmd w => .busWrite 0x00#8 w
  | .bus a => a

end Sys2Proof
end

