-- ==== Sys2Proof/Machine/Commands.lean ====
section
/-! DEFINITION. The meanings of NOP, INIT, COMPRESS, CMD_W and CMD_R (spec/41_commands.md R130 to R135, R143; spec/30_encoding.md R81). -/

namespace Sys2Proof.Machine

/-- INIT: H[0..4] <- IV[0..4] (R133). -/
def Block.init (b : Block) : Block := { b with h := iv }

/-- COMPRESS start: seed A..E from H, RND <- 0, BUSY <- 1; MSG and MVALID are not changed (R135). -/
def Block.start (b : Block) : Block := { b with work := Work.seed b.h, rnd := 0#7, busy := true }

/-- The command write of COMPRESS: ERR_INCOMPLETE unless all sixteen window words are valid (R134, R224). -/
def Block.compressCommand (b : Block) : Block :=
  if b.mvalid = mvalidFull then b.start else b.raise .incomplete

/-- The command word v, in the order of tests of R81 after the busy test, which is the priority of R225. -/
def Block.command (b : Block) (v : Word) : Block :=
  if rsvdField v ≠ 0#28 then b.raise .cmd
  else if opField v = 0x0#4 then b
  else if opField v = 0x1#4 then b.init
  else if opField v = 0x2#4 then b.compressCommand
  else b.raise .cmd

/-- NOP: no state changes; ERR_BUSY if written while busy (R132). -/
def execNop (s : State) : Host.Outcome State Fault Refusal := onBlock (fun b => b.whenIdle id) s

/-- INIT (R133); ERR_BUSY if written while busy. -/
def execInit (s : State) : Host.Outcome State Fault Refusal := onBlock (fun b => b.whenIdle Block.init) s

/-- COMPRESS: the start, in the step of its write (R130, R134); the rounds and the fold are engine steps. -/
def execCompress (s : State) : Host.Outcome State Fault Refusal :=
  onBlock (fun b => b.whenIdle Block.compressCommand) s

/-- CMD_W: the write of any word at 0x00 (R81). -/
def execCmdW (v : Word) (s : State) : Host.Outcome State Fault Refusal :=
  onBlock (fun b => b.whenIdle (fun b => b.command v)) s

/-- CMD_R: returns 0 in every state (R143). -/
def execCmdR (s : State) : Host.Outcome State Fault Refusal := respond 0#32 s

end Sys2Proof.Machine
end

