-- ==== Sys2Proof/Machine/DigestAccess.lean ====
section
/-! DEFINITION. The meanings of the rows H0_R to H4_W (spec/41_commands.md R137, R138): each one line over the shared digest-register
read and write. -/

namespace Sys2Proof.Machine

/-- H0_R (R137): return H[0], at any time. -/
def execH0R (s : State) : Host.Outcome State Fault Refusal := readDigest 0 s

/-- H0_W (R138): H[0] <- v when idle; ERR_BUSY when busy. -/
def execH0W (v : Word) (s : State) : Host.Outcome State Fault Refusal := writeDigest 0 v s

/-- H1_R (R137): return H[1], at any time. -/
def execH1R (s : State) : Host.Outcome State Fault Refusal := readDigest 1 s

/-- H1_W (R138): H[1] <- v when idle; ERR_BUSY when busy. -/
def execH1W (v : Word) (s : State) : Host.Outcome State Fault Refusal := writeDigest 1 v s

/-- H2_R (R137): return H[2], at any time. -/
def execH2R (s : State) : Host.Outcome State Fault Refusal := readDigest 2 s

/-- H2_W (R138): H[2] <- v when idle; ERR_BUSY when busy. -/
def execH2W (v : Word) (s : State) : Host.Outcome State Fault Refusal := writeDigest 2 v s

/-- H3_R (R137): return H[3], at any time. -/
def execH3R (s : State) : Host.Outcome State Fault Refusal := readDigest 3 s

/-- H3_W (R138): H[3] <- v when idle; ERR_BUSY when busy. -/
def execH3W (v : Word) (s : State) : Host.Outcome State Fault Refusal := writeDigest 3 v s

/-- H4_R (R137): return H[4], at any time. -/
def execH4R (s : State) : Host.Outcome State Fault Refusal := readDigest 4 s

/-- H4_W (R138): H[4] <- v when idle; ERR_BUSY when busy. -/
def execH4W (v : Word) (s : State) : Host.Outcome State Fault Refusal := writeDigest 4 v s

end Sys2Proof.Machine
end

