-- ==== Sys2Proof/Machine/ReservedAccess.lean ====
section
/-! DEFINITION. The meanings of RSVD_R and RSVD_W (spec/20_memory.md R53). -/

namespace Sys2Proof.Machine

/-- RSVD_R: a read of a reserved offset returns 0 (R53). -/
def execRsvdR (_off : Offset) (s : State) : Host.Outcome State Fault Refusal := respond 0#32 s

/-- RSVD_W: a write to a reserved offset changes no state and raises no error, idle or busy (R53). -/
def execRsvdW (_off : Offset) (_v : Word) (s : State) : Host.Outcome State Fault Refusal := onBlock id s

end Sys2Proof.Machine
end

