-- ==== Sys2Proof/Machine/StatusAccess.lean ====
section
/-! DEFINITION. The meanings of STATUS_R and STATUS_W (spec/41_commands.md R141, R142). -/

namespace Sys2Proof.Machine

/-- STATUS_R: allowed at any time; the read clears nothing (R141). -/
def execStatusR (s : State) : Host.Outcome State Fault Refusal := respond s.block.status s

/-- STATUS_W: write 1 to clear bits 8, 9, 10; every other bit of v is ignored; never raises ERR_BUSY (R142). -/
def execStatusW (v : Word) (s : State) : Host.Outcome State Fault Refusal := onBlock (fun b => b.clearErrors v) s

end Sys2Proof.Machine
end

