-- ==== Sys2Proof/Machine/WindowAccess.lean ====
section
/-! DEFINITION. The meanings of the rows MSG0_R to MSG15_W (spec/41_commands.md R139, R140): each one line over the shared window
read and write. -/

namespace Sys2Proof.Machine

/-- MSG0_R (R139): return MSG[0] when idle; a free draw when busy. -/
def execMsg0R (s : State) : Host.Outcome State Fault Refusal := readWindow 0 s

/-- MSG0_W (R140): MSG[0] <- v and MVALID[0] <- 1 when idle; ERR_BUSY when busy. -/
def execMsg0W (v : Word) (s : State) : Host.Outcome State Fault Refusal := writeWindow 0 v s

/-- MSG1_R (R139): return MSG[1] when idle; a free draw when busy. -/
def execMsg1R (s : State) : Host.Outcome State Fault Refusal := readWindow 1 s

/-- MSG1_W (R140): MSG[1] <- v and MVALID[1] <- 1 when idle; ERR_BUSY when busy. -/
def execMsg1W (v : Word) (s : State) : Host.Outcome State Fault Refusal := writeWindow 1 v s

/-- MSG2_R (R139): return MSG[2] when idle; a free draw when busy. -/
def execMsg2R (s : State) : Host.Outcome State Fault Refusal := readWindow 2 s

/-- MSG2_W (R140): MSG[2] <- v and MVALID[2] <- 1 when idle; ERR_BUSY when busy. -/
def execMsg2W (v : Word) (s : State) : Host.Outcome State Fault Refusal := writeWindow 2 v s

/-- MSG3_R (R139): return MSG[3] when idle; a free draw when busy. -/
def execMsg3R (s : State) : Host.Outcome State Fault Refusal := readWindow 3 s

/-- MSG3_W (R140): MSG[3] <- v and MVALID[3] <- 1 when idle; ERR_BUSY when busy. -/
def execMsg3W (v : Word) (s : State) : Host.Outcome State Fault Refusal := writeWindow 3 v s

/-- MSG4_R (R139): return MSG[4] when idle; a free draw when busy. -/
def execMsg4R (s : State) : Host.Outcome State Fault Refusal := readWindow 4 s

/-- MSG4_W (R140): MSG[4] <- v and MVALID[4] <- 1 when idle; ERR_BUSY when busy. -/
def execMsg4W (v : Word) (s : State) : Host.Outcome State Fault Refusal := writeWindow 4 v s

/-- MSG5_R (R139): return MSG[5] when idle; a free draw when busy. -/
def execMsg5R (s : State) : Host.Outcome State Fault Refusal := readWindow 5 s

/-- MSG5_W (R140): MSG[5] <- v and MVALID[5] <- 1 when idle; ERR_BUSY when busy. -/
def execMsg5W (v : Word) (s : State) : Host.Outcome State Fault Refusal := writeWindow 5 v s

/-- MSG6_R (R139): return MSG[6] when idle; a free draw when busy. -/
def execMsg6R (s : State) : Host.Outcome State Fault Refusal := readWindow 6 s

/-- MSG6_W (R140): MSG[6] <- v and MVALID[6] <- 1 when idle; ERR_BUSY when busy. -/
def execMsg6W (v : Word) (s : State) : Host.Outcome State Fault Refusal := writeWindow 6 v s

/-- MSG7_R (R139): return MSG[7] when idle; a free draw when busy. -/
def execMsg7R (s : State) : Host.Outcome State Fault Refusal := readWindow 7 s

/-- MSG7_W (R140): MSG[7] <- v and MVALID[7] <- 1 when idle; ERR_BUSY when busy. -/
def execMsg7W (v : Word) (s : State) : Host.Outcome State Fault Refusal := writeWindow 7 v s

/-- MSG8_R (R139): return MSG[8] when idle; a free draw when busy. -/
def execMsg8R (s : State) : Host.Outcome State Fault Refusal := readWindow 8 s

/-- MSG8_W (R140): MSG[8] <- v and MVALID[8] <- 1 when idle; ERR_BUSY when busy. -/
def execMsg8W (v : Word) (s : State) : Host.Outcome State Fault Refusal := writeWindow 8 v s

/-- MSG9_R (R139): return MSG[9] when idle; a free draw when busy. -/
def execMsg9R (s : State) : Host.Outcome State Fault Refusal := readWindow 9 s

/-- MSG9_W (R140): MSG[9] <- v and MVALID[9] <- 1 when idle; ERR_BUSY when busy. -/
def execMsg9W (v : Word) (s : State) : Host.Outcome State Fault Refusal := writeWindow 9 v s

/-- MSG10_R (R139): return MSG[10] when idle; a free draw when busy. -/
def execMsg10R (s : State) : Host.Outcome State Fault Refusal := readWindow 10 s

/-- MSG10_W (R140): MSG[10] <- v and MVALID[10] <- 1 when idle; ERR_BUSY when busy. -/
def execMsg10W (v : Word) (s : State) : Host.Outcome State Fault Refusal := writeWindow 10 v s

/-- MSG11_R (R139): return MSG[11] when idle; a free draw when busy. -/
def execMsg11R (s : State) : Host.Outcome State Fault Refusal := readWindow 11 s

/-- MSG11_W (R140): MSG[11] <- v and MVALID[11] <- 1 when idle; ERR_BUSY when busy. -/
def execMsg11W (v : Word) (s : State) : Host.Outcome State Fault Refusal := writeWindow 11 v s

/-- MSG12_R (R139): return MSG[12] when idle; a free draw when busy. -/
def execMsg12R (s : State) : Host.Outcome State Fault Refusal := readWindow 12 s

/-- MSG12_W (R140): MSG[12] <- v and MVALID[12] <- 1 when idle; ERR_BUSY when busy. -/
def execMsg12W (v : Word) (s : State) : Host.Outcome State Fault Refusal := writeWindow 12 v s

/-- MSG13_R (R139): return MSG[13] when idle; a free draw when busy. -/
def execMsg13R (s : State) : Host.Outcome State Fault Refusal := readWindow 13 s

/-- MSG13_W (R140): MSG[13] <- v and MVALID[13] <- 1 when idle; ERR_BUSY when busy. -/
def execMsg13W (v : Word) (s : State) : Host.Outcome State Fault Refusal := writeWindow 13 v s

/-- MSG14_R (R139): return MSG[14] when idle; a free draw when busy. -/
def execMsg14R (s : State) : Host.Outcome State Fault Refusal := readWindow 14 s

/-- MSG14_W (R140): MSG[14] <- v and MVALID[14] <- 1 when idle; ERR_BUSY when busy. -/
def execMsg14W (v : Word) (s : State) : Host.Outcome State Fault Refusal := writeWindow 14 v s

/-- MSG15_R (R139): return MSG[15] when idle; a free draw when busy. -/
def execMsg15R (s : State) : Host.Outcome State Fault Refusal := readWindow 15 s

/-- MSG15_W (R140): MSG[15] <- v and MVALID[15] <- 1 when idle; ERR_BUSY when busy. -/
def execMsg15W (v : Word) (s : State) : Host.Outcome State Fault Refusal := writeWindow 15 v s

end Sys2Proof.Machine
end

