-- ==== Sys2Proof/Machine/Dispatch.lean ====
section
/-! DEFINITION. The dispatch of every row of the opcode table to its meaning. -/

namespace Sys2Proof.Machine

def exec (i : Instr) (s : State) : Host.Outcome State Fault Refusal :=
  match i with
  | .nop => Sys2Proof.Machine.execNop s
  | .init => Sys2Proof.Machine.execInit s
  | .compress => Sys2Proof.Machine.execCompress s
  | .cmdW v => Sys2Proof.Machine.execCmdW v s
  | .cmdR => Sys2Proof.Machine.execCmdR s
  | .statusR => Sys2Proof.Machine.execStatusR s
  | .statusW v => Sys2Proof.Machine.execStatusW v s
  | .h0R => Sys2Proof.Machine.execH0R s
  | .h0W v => Sys2Proof.Machine.execH0W v s
  | .h1R => Sys2Proof.Machine.execH1R s
  | .h1W v => Sys2Proof.Machine.execH1W v s
  | .h2R => Sys2Proof.Machine.execH2R s
  | .h2W v => Sys2Proof.Machine.execH2W v s
  | .h3R => Sys2Proof.Machine.execH3R s
  | .h3W v => Sys2Proof.Machine.execH3W v s
  | .h4R => Sys2Proof.Machine.execH4R s
  | .h4W v => Sys2Proof.Machine.execH4W v s
  | .msg0R => Sys2Proof.Machine.execMsg0R s
  | .msg0W v => Sys2Proof.Machine.execMsg0W v s
  | .msg1R => Sys2Proof.Machine.execMsg1R s
  | .msg1W v => Sys2Proof.Machine.execMsg1W v s
  | .msg2R => Sys2Proof.Machine.execMsg2R s
  | .msg2W v => Sys2Proof.Machine.execMsg2W v s
  | .msg3R => Sys2Proof.Machine.execMsg3R s
  | .msg3W v => Sys2Proof.Machine.execMsg3W v s
  | .msg4R => Sys2Proof.Machine.execMsg4R s
  | .msg4W v => Sys2Proof.Machine.execMsg4W v s
  | .msg5R => Sys2Proof.Machine.execMsg5R s
  | .msg5W v => Sys2Proof.Machine.execMsg5W v s
  | .msg6R => Sys2Proof.Machine.execMsg6R s
  | .msg6W v => Sys2Proof.Machine.execMsg6W v s
  | .msg7R => Sys2Proof.Machine.execMsg7R s
  | .msg7W v => Sys2Proof.Machine.execMsg7W v s
  | .msg8R => Sys2Proof.Machine.execMsg8R s
  | .msg8W v => Sys2Proof.Machine.execMsg8W v s
  | .msg9R => Sys2Proof.Machine.execMsg9R s
  | .msg9W v => Sys2Proof.Machine.execMsg9W v s
  | .msg10R => Sys2Proof.Machine.execMsg10R s
  | .msg10W v => Sys2Proof.Machine.execMsg10W v s
  | .msg11R => Sys2Proof.Machine.execMsg11R s
  | .msg11W v => Sys2Proof.Machine.execMsg11W v s
  | .msg12R => Sys2Proof.Machine.execMsg12R s
  | .msg12W v => Sys2Proof.Machine.execMsg12W v s
  | .msg13R => Sys2Proof.Machine.execMsg13R s
  | .msg13W v => Sys2Proof.Machine.execMsg13W v s
  | .msg14R => Sys2Proof.Machine.execMsg14R s
  | .msg14W v => Sys2Proof.Machine.execMsg14W v s
  | .msg15R => Sys2Proof.Machine.execMsg15R s
  | .msg15W v => Sys2Proof.Machine.execMsg15W v s
  | .rsvdR off => Sys2Proof.Machine.execRsvdR off s
  | .rsvdW off v => Sys2Proof.Machine.execRsvdW off v s

end Sys2Proof.Machine
end

