-- ==== Sys2Proof/Machine/HostPort.lean ====
section
/-! DEFINITION. The host's steps: one access, one read of a polling loop, one edge of reset; and which agent moves
(spec/20_memory.md R54, R58; spec/30_encoding.md R86; spec/70_reset_and_hazards.md R250). -/

namespace Sys2Proof.Machine

/-- The refusal of an access that has no row (R54). A bus access never decodes to an illegal command word. -/
def refusalOf (a : Access) : DecodeError → Refusal
  | .accessWidth bits => .accessWidth bits
  | .misaligned off => .misaligned off
  | .illegalCommand _ => .misaligned a.offset

/-- After a read the host keeps the word the port returned; after a write it keeps nothing (R86 `lw`, `sw`). -/
def State.keepRead (s : State) : Direction → State
  | .read => { s with reads := s.reads ++ [s.rdata] }
  | .write _ => s

/-- A polling loop after one of its reads: over when `(result and MASK) = VAL`, otherwise still at the head (R86). -/
def State.endPoll (s : State) (mask val : Word) (rest : List HostItem) : State :=
  if s.rdata &&& mask = val then { s with pending := rest } else s

/-- Continue with `f` after a next state. -/
def andThen (o : Host.Outcome State Fault Refusal) (f : State → State) : Host.Outcome State Fault Refusal :=
  match o with
  | .next s => .next (f s)
  | .fault r => .fault r
  | .refused r => .refused r

/-- One access of the host: decode it and run it, or refuse it by name (R54, R85). -/
def runAccess (a : Access) (s : State) : Host.Outcome State Fault Refusal :=
  match accessInstr a with
  | .ok i => andThen (exec i s) (fun t => t.keepRead a.dir)
  | .error e => .refused (refusalOf a e)

/-- One read of a polling loop (R86): the host tests the word and does not keep it. -/
def runPoll (off : Offset) (mask val : Word) (rest : List HostItem) (s : State) : Host.Outcome State Fault Refusal :=
  match accessInstr (.busRead off) with
  | .ok i => andThen (exec i s) (fun t => t.endPoll mask val rest)
  | .error e => .refused (refusalOf (.busRead off) e)

/-- The engine moves: BUSY = 1, and it is its turn, or no turn is left, or nothing is pending outside. "The engine has a step only
while BUSY = 1" (R58), and with a finite list of turns its next step eventually happens (R259). -/
def State.engineTurn (s : State) : Bool :=
  s.block.busy &&
    match s.schedule with
    | [] => true
    | .engine :: _ => true
    | .host :: _ => s.pending.isEmpty

/-- Each step taken while BUSY = 1 uses up one turn (notes/assumptions/3.md). -/
def State.useTurn (s : State) : State :=
  if s.block.busy then { s with schedule := s.schedule.tail } else s

/-- The outside world's next item, the block not in reset. With nothing pending the block holds its state (R234). -/
def hostStep (s : State) : Host.Outcome State Fault Refusal :=
  match s.pending with
  | [] => .next s
  | .access a :: rest => runAccess a { s with pending := rest }
  | .poll off mask val :: rest => runPoll off mask val rest s
  | .resetAssert :: rest => .next { s.loadReset with inReset := true, pending := rest }
  | .resetDeassert :: rest => .next { s with pending := rest }

/-- The outside world's next item while reset is asserted (R250): the port admits no access; at deassertion every piece of state
holds its reset value. -/
def resetStep (s : State) : Host.Outcome State Fault Refusal :=
  match s.pending with
  | [] => .next s
  | .access _ :: _ => .refused .duringReset
  | .poll _ _ _ :: _ => .refused .duringReset
  | .resetAssert :: rest => .next { s with pending := rest }
  | .resetDeassert :: rest => .next { s.loadReset with inReset := false, pending := rest }

end Sys2Proof.Machine
end

