-- ==== Sys2Proof/Machine/Step.lean ====
section
/-! DEFINITION. The step: in reset only reset events happen; otherwise the engine moves when it is its turn, else the host
(spec/20_memory.md R58). Each step of either agent is atomic. -/

namespace Sys2Proof.Machine

/-- One atomic step of one agent (R58). -/
def step (s : State) : Host.Outcome State Fault Refusal :=
  if s.inReset then resetStep s
  else if s.engineTurn then engineStep s.useTurn
  else hostStep s.useTurn

/-- s with the instruction of a table row as the host's very next step: the access that delivers it is first in the pending list, a
command word as the write at 0x00; the turn is the host's; reset is not asserted (notes/assumptions/6.md). -/
def State.withFetchWord (s : State) (nbits w : Nat) : State :=
  { s with
    inReset := false
    schedule := if s.block.busy then .host :: s.schedule else s.schedule
    pending := .access (tableForm nbits w).toAccess :: s.pending }

end Sys2Proof.Machine
end

