-- ==== Sys2Proof/Machine/Padding.lean ====
section
/-! DEFINITION. Host duties on bytes: the padding stage (spec/40_host_padding.md R100 to R105) and word extraction (R106). They bind
the host program, not the block. -/

namespace Sys2Proof.Machine

/-- MAX_MSG_BYTES = 2^61 - 1, the longest message the host driver accepts (R101, spec/90_conflicts.md C7). -/
def maxMsgBytes : Nat := 2 ^ 61 - 1

/-- The zero fill for a message of `len` bytes: (64 - ((L2 + 8) mod 64)) mod 64 with L2 = len + 1 (R103). -/
def padCount (len : Nat) : Nat := (64 - ((len + 1 + 8) % 64)) % 64

/-- pad(m) = m, 0x80, zeros, the bit length as 8 bytes big-endian (R104). For a message of more than MAX_MSG_BYTES the spec gives no
padding (R101, spec/90_conflicts.md C7) and the driver refuses it; that this function is total, with 8 * len modulo 2^64 as the trailer
there, is a DESIGN CHOICE (notes/assumptions/22.md). -/
def pad (m : List Byte) : List Byte :=
  m ++ [0x80#8] ++ List.replicate (padCount m.length) 0#8 ++ bytesBe (8 * m.length) 8

/-- Block n of a padded sequence as sixteen words: w[j] = be32(p, 64n + 4j) (R106). -/
def blockWords (p : List Byte) (n : Nat) : Vector Word 16 :=
  #v[be32 p (64 * n), be32 p (64 * n + 4), be32 p (64 * n + 8), be32 p (64 * n + 12),
     be32 p (64 * n + 16), be32 p (64 * n + 20), be32 p (64 * n + 24), be32 p (64 * n + 28),
     be32 p (64 * n + 32), be32 p (64 * n + 36), be32 p (64 * n + 40), be32 p (64 * n + 44),
     be32 p (64 * n + 48), be32 p (64 * n + 52), be32 p (64 * n + 56), be32 p (64 * n + 60)]

/-- The blocks of a padded sequence, in order. -/
def blocksOf (p : List Byte) : List (Vector Word 16) := (List.range (p.length / 64)).map (blockWords p)

end Sys2Proof.Machine
end

