-- ==== Sys2Proof/Machine/Driver.lean ====
section
/-! DEFINITION. Host duties on accesses: the pseudo-instructions (spec/30_encoding.md R87), the listing form of a program line (R86),
the digest driver (spec/40_host_padding.md R107), the chained digest (spec/43_compression_rounds.md R200) and its formatting
(R108, R109). They bind the host program, not the block. -/

namespace Sys2Proof.Machine

/-- `NOP` (R87). -/
def nopOps : List HostOp := [.sw 0x00#8 0x00000000#32]

/-- `INIT` (R87). -/
def initOps : List HostOp := [.sw 0x00#8 0x00000001#32]

/-- `COMPRESS` (R87). -/
def compressOps : List HostOp := [.sw 0x00#8 0x00000002#32]

/-- `WAIT`: poll STATUS until BUSY = 0 (R87). -/
def waitOps : List HostOp := [.poll 0x04#8 0x00000001#32 0x00000000#32]

/-- `CLRERR` (R87). -/
def clrErrOps : List HostOp := [.sw 0x04#8 0x00000700#32]

/-- `LDBLK v0, ..., v15`: sixteen writes, offset 0x40 + 4j for vj (R87). -/
def ldblkOps (v : Vector Word 16) : List HostOp :=
  (List.finRange 16).map fun j => .sw (msgOffset j) v[j]

/-- `SETH v0, ..., v4` (R87): also how a saved chaining value is restored (R111). -/
def sethOps (v : Vector Word 5) : List HostOp := (List.finRange 5).map fun i => .sw (hOffset i) v[i]

/-- `RDH -> h0, ..., h4` (R87): also how a chaining value is saved (R111). -/
def rdhOps : List HostOp := (List.finRange 5).map fun i => .lw (hOffset i)

/-- `BLOCK v0, ..., v15` (R87). -/
def blockOps (v : Vector Word 16) : List HostOp := ldblkOps v ++ compressOps ++ waitOps

/-- Why the host has no digest to return. -/
inductive DriverFault where
  /-- The host failed to obtain the message: "a distinct fault", never an empty message (R110). -/
  | inputNotObtained
  /-- The message is longer than MAX_MSG_BYTES (R101). -/
  | messageTooLong
  /-- The final STATUS read shows an error bit: "the result is not a digest" (R107, R227). -/
  | interfaceError
  /-- The run had not ended, or had not read six words, within the steps it was given (notes/assumptions/24.md). -/
  | notEnded
  /-- A step answered a fault or a refusal, so the machine went no further (notes/assumptions/24.md). -/
  | stopped
  deriving DecidableEq, Repr

/-- The program of `compute_digest(m)` up to the final STATUS read; a message longer than MAX_MSG_BYTES is refused (R101, R107). -/
def digestProgram (m : List Byte) : Except DriverFault (List HostOp) :=
  if m.length ≤ maxMsgBytes then
    .ok (initOps ++ (blocksOf (pad m)).flatMap blockOps ++ rdhOps ++ [.lw 0x04#8])
  else .error .messageTooLong

/-- Input acquisition (R110): if the bytes were not obtained there is no program, not even an INIT write, and the failure has a name of
its own. -/
def driverProgram : Option (List Byte) → Except DriverFault (List HostOp)
  | none => .error .inputNotObtained
  | some m => digestProgram m

/-- The program of a new attempt after an interface error: "the host must clear the bits and start again from INIT" (R107). -/
def restartOps (program : List HostOp) : List HostOp := clrErrOps ++ program

/-- What the driver returns from the words the host has read, the last six of which are the program's: the five H words if the final
STATUS shows no error bit, otherwise no digest (R107, R227). -/
def driverResult (reads : List Word) : Except DriverFault (Vector Word 5) :=
  match reads.drop (reads.length - 6) with
  | [h0, h1, h2, h3, h4, s] => if s.extractLsb 10 8 = 0#3 then .ok #v[h0, h1, h2, h3, h4] else .error .interfaceError
  | _ => .error .notEnded

/-- The digest of a message: h_0 = IV, h_(n+1) = compress(h_n, b_n) over its padded blocks (R200); none for a message the driver
refuses (R101). -/
def digest (m : List Byte) : Option (Vector Word 5) :=
  if m.length ≤ maxMsgBytes then some ((blocksOf (pad m)).foldl compress iv) else none

/-- The 160-bit digest value, h0 most significant (R108). -/
def digestValue (h : Vector Word 5) : BitVec 160 := h[0] ++ h[1] ++ h[2] ++ h[3] ++ h[4]

/-- The 20 digest bytes (R108). -/
def digestBytes (h : Vector Word 5) : List Byte := h.toList.flatMap fun w => bytesBe w.toNat 4

/-- The 40-character lowercase hexadecimal string, as its characters (R109). -/
def digestHex (h : Vector Word 5) : List Char := h.toList.flatMap fun w => hexDigits lowerHexDigit w.toNat 8

/-- The listing line of a program line: `W OFF VAL`, `R OFF`, `P OFF MASK VAL`, "OFF as two hex digits and MASK and VAL as eight"
(R86). -/
def HostOp.listing : HostOp → List Char
  | .sw off v => 'W' :: ' ' :: hexDigits upperHexDigit off.toNat 2 ++ ' ' :: hexDigits upperHexDigit v.toNat 8
  | .lw off => 'R' :: ' ' :: hexDigits upperHexDigit off.toNat 2
  | .poll off mask val =>
    'P' :: ' ' :: hexDigits upperHexDigit off.toNat 2 ++ ' ' :: hexDigits upperHexDigit mask.toNat 8
      ++ ' ' :: hexDigits upperHexDigit val.toNat 8

/-- Read n hex digits, most significant first, onto a value read so far. -/
def takeHex : Nat → Nat → List Char → Option (Nat × List Char)
  | 0, acc, l => some (acc, l)
  | _ + 1, _, [] => none
  | n + 1, acc, c :: l =>
    match hexValue c with
    | some d => takeHex n (acc * 16 + d) l
    | none => none

/-- A space, then n hex digits. -/
def takeField (n : Nat) : List Char → Option (Nat × List Char)
  | ' ' :: l => takeHex n 0 l
  | _ => none

/-- Read a listing line back (R86); anything else is no line of a program. -/
def parseListing : List Char → Option HostOp
  | 'W' :: l =>
    match takeField 2 l with
    | some (off, l) =>
      match takeField 8 l with
      | some (v, []) => some (.sw (BitVec.ofNat 8 off) (BitVec.ofNat 32 v))
      | _ => none
    | none => none
  | 'R' :: l =>
    match takeField 2 l with
    | some (off, []) => some (.lw (BitVec.ofNat 8 off))
    | _ => none
  | 'P' :: l =>
    match takeField 2 l with
    | some (off, l) =>
      match takeField 8 l with
      | some (mask, l) =>
        match takeField 8 l with
        | some (val, []) => some (.poll (BitVec.ofNat 8 off) (BitVec.ofNat 32 mask) (BitVec.ofNat 32 val))
        | _ => none
      | none => none
    | none => none
  | _ => none

end Sys2Proof.Machine
end

