-- ==== Sys2Proof/Machine/Run.lean ====
section
/-! DEFINITION. Runs of several steps: their end (spec/70_reset_and_hazards.md R260), the run of a host program, and compute_digest run
on the block with its restart after an interface error (spec/40_host_padding.md R107, R110). -/

namespace Sys2Proof.Machine

/-- A run has ended: the host has performed its last access and BUSY = 0 (R260). R260 "does not say" anything of a run during which
reset was asserted; that the test does not look at `inReset`, so that a block held in reset with nothing pending counts as ended, is a
DESIGN CHOICE (notes/assumptions/23.md). -/
def State.isFinal (s : State) : Bool := s.pending.isEmpty && !s.block.busy

/-- n steps, stopping at the first fault or refusal: the host's `Core.run` on this machine (`steps_eq_run`). -/
def steps : Nat → State → Host.Outcome State Fault Refusal
  | 0, s => .next s
  | n + 1, s =>
    match step s with
    | .next t => steps n t
    | .fault r => .fault r
    | .refused r => .refused r

/-- The host issues a program: its lines follow whatever is pending, in order (R58, R86). -/
def State.issue (s : State) (program : List HostOp) : State :=
  { s with pending := s.pending ++ program.map HostOp.toItem }

/-- Run a program to its end, within n steps (R260). A state where a run has ended steps to itself out of reset, so n may be larger than
needed. -/
def runProgram (n : Nat) (program : List HostOp) (s : State) : Except DriverFault State :=
  match steps n (s.issue program) with
  | .next t => if t.isFinal then .ok t else .error .notEnded
  | .fault _ => .error .stopped
  | .refused _ => .error .stopped

/-- Attempts at a digest (R107): run `first`; if its final STATUS shows an error bit, clear the bits and start `program` again from INIT,
as many more times as are left (notes/assumptions/24.md). -/
def attemptDigest (n : Nat) (program : List HostOp) : Nat → List HostOp → State → Except DriverFault (Vector Word 5)
  | 0, first, s =>
    match runProgram n first s with
    | .ok t => driverResult t.reads
    | .error e => .error e
  | restarts + 1, first, s =>
    match runProgram n first s with
    | .ok t =>
      match driverResult t.reads with
      | .ok h => .ok h
      | .error .interfaceError => attemptDigest n program restarts (restartOps program) t
      | .error e => .error e
    | .error e => .error e

/-- compute_digest on the block in state s (R107): no access at all where the input was not obtained (R110) or is too long (R101). -/
def computeDigest (n restarts : Nat) (input : Option (List Byte)) (s : State) : Except DriverFault (Vector Word 5) :=
  match driverProgram input with
  | .ok program => attemptDigest n program restarts program s
  | .error e => .error e

end Sys2Proof.Machine
end

