-- ==== Sys2Proof/Safety.lean ====
section
/-! DEFINITION. What counts as a safe state and a finished run, and the terms the claims use: the invariant of the block, the error-free
status (spec/60_exceptions.md R227), the accesses the port admits, lists of instructions, and the rows that read. -/

namespace Sys2Proof.Machine

/-- The block's invariant: RND never passes 80 (R26); while BUSY = 1 every window word is valid (R134, R198), and for some block m the
window and A..E are what the first RND rounds over m's schedule, seeded from H, leave (R135, R174, R196). -/
def Block.Inv (b : Block) : Prop :=
  b.rnd.toNat ≤ 80 ∧
    (b.busy = true →
      b.mvalid = mvalidFull ∧
        ∃ m : Vector Word 16,
          b.msg = windowAfter m b.rnd.toNat ∧
            b.work = rounds (scheduleWord m) b.rnd.toNat (Work.seed b.h))

/-- The invariant of the machine. -/
def State.Inv (s : State) : Prop := s.block.Inv

/-- All three error bits are 0: the premise a claim about a digest takes (R227). -/
def Block.errorFree (b : Block) : Bool := !b.errCmd && !b.errBusy && !b.errIncomplete

/-- An access or polling loop the port admits (R54); reset events are not host accesses. -/
def HostItem.isAdmitted : HostItem → Bool
  | .access a => a.bits == 32 && isAligned a.offset
  | .poll off _ _ => isAligned off
  | .resetAssert => false
  | .resetDeassert => false

/-- The instructions of a list, in order, each in the state the one before left; stopping at the first fault or refusal. -/
def execAll : List Instr → State → Host.Outcome State Fault Refusal
  | [], s => .next s
  | i :: is, s =>
    match exec i s with
    | .next t => execAll is t
    | .fault r => .fault r
    | .refused r => .refused r

/-- The rows that read: CMD_R, STATUS_R, H0_R to H4_R, MSG0_R to MSG15_R and RSVD_R (R85). -/
def isRead (i : Instr) : Bool :=
  match encode i with
  | .bus { offset := _, bits := _, dir := .read } => true
  | _ => false

end Sys2Proof.Machine
end

