-- ==== Sys2Proof/Certificates/Slice0/Obligations.lean ====
section
/-! DEFINITION. The statements for the provers: what the rules of spec/ say of the machine. A docstring names the rule; a clause that is
the model's own choice names its log entry. -/

open Sys2Proof Sys2Proof.Machine

/-- R32: the value of every piece of the block's state after reset. -/
def Obligations.ResetValueOfEveryRegister : Prop :=
  State.reset.block.h = #v[0x67452301#32, 0xEFCDAB89#32, 0x98BADCFE#32, 0x10325476#32, 0xC3D2E1F0#32] ∧
  (∀ j : Fin 16, State.reset.block.msg[j] = 0#32) ∧
  State.reset.block.mvalid = 0#16 ∧ State.reset.block.busy = false ∧
  State.reset.block.errCmd = false ∧ State.reset.block.errBusy = false ∧ State.reset.block.errIncomplete = false ∧
  State.reset.block.work.a = 0#32 ∧ State.reset.block.work.b = 0#32 ∧ State.reset.block.work.c = 0#32 ∧
  State.reset.block.work.d = 0#32 ∧ State.reset.block.work.e = 0#32 ∧ State.reset.block.rnd = 0#7

/-- R250: a reset pulse from any state, a COMPRESS in progress included, leaves the block at its reset values; while reset is asserted
no access is admitted and the engine does not move. The model's choices in it: the values are loaded at the assertion already
(notes/assumptions/7.md); every access in reset, misaligned or of another width too, is refused as duringReset
(notes/assumptions/8.md); in reset with nothing pending a step changes nothing (notes/assumptions/9.md); the turn used up
(notes/assumptions/3.md). -/
def Obligations.ResetAbandonsCompress : Prop :=
  (∀ (s : State) (rest : List HostItem), s.inReset = false → s.engineTurn = false →
    s.pending = .resetAssert :: .resetDeassert :: rest →
    steps 2 s = .next { s.useTurn with block := State.reset.block, inReset := false, pending := rest }) ∧
  (∀ (s : State) (rest : List HostItem), s.inReset = true → s.pending = .resetDeassert :: rest →
    step s = .next { s with block := State.reset.block, inReset := false, pending := rest }) ∧
  (∀ (s : State) (a : Access) (rest : List HostItem), s.inReset = true → s.pending = .access a :: rest →
    step s = .refused .duringReset) ∧
  (∀ (s : State) (off : Offset) (mask val : Word) (rest : List HostItem), s.inReset = true →
    s.pending = .poll off mask val :: rest → step s = .refused .duringReset) ∧
  (∀ s : State, s.inReset = true → s.pending = [] → step s = .next s)

/-- R132: NOP. -/
def Obligations.NopChangesNothing : Prop :=
  decode (.cmd 0x00000000#32) = .ok .nop ∧
  ∀ s : State,
    (s.block.busy = false → exec .nop s = .next s) ∧
    (s.block.busy = true → exec .nop s = .next { s with block := { s.block with errBusy := true } })

/-- R133: INIT writes H and nothing else, twice is the same as once, and while busy it only raises ERR_BUSY. -/
def Obligations.InitLoadsInitialValues : Prop :=
  decode (.cmd 0x00000001#32) = .ok .init ∧
  ∀ s : State,
    (s.block.busy = false →
      exec .init s = .next { s with block := { s.block with
        h := #v[0x67452301#32, 0xEFCDAB89#32, 0x98BADCFE#32, 0x10325476#32, 0xC3D2E1F0#32] } } ∧
      execAll [.init, .init] s = exec .init s) ∧
    (s.block.busy = true → exec .init s = .next { s with block := { s.block with errBusy := true } })

/-- R135: the start of an accepted COMPRESS; MSG and MVALID are not changed. -/
def Obligations.CompressStartSeedsWorkingRegisters : Prop :=
  decode (.cmd 0x00000002#32) = .ok .compress ∧
  ∀ s : State, s.block.busy = false → s.block.mvalid = 0xFFFF#16 →
    exec .compress s = .next { s with block := { s.block with
      work := { a := s.block.h[0], b := s.block.h[1], c := s.block.h[2], d := s.block.h[3], e := s.block.h[4] }
      rnd := 0#7
      busy := true } }

/-- R224: COMPRESS with a window word missing raises ERR_INCOMPLETE and starts nothing. -/
def Obligations.CompressNeedsWholeBlock : Prop :=
  decode (.cmd 0x00000002#32) = .ok .compress ∧
  ∀ s : State, s.block.busy = false → s.block.mvalid ≠ 0xFFFF#16 →
    exec .compress s = .next { s with block := { s.block with errIncomplete := true } }

/-- R81 and R222: a CMD write, in the order of its tests. -/
def Obligations.CommandWriteOrderOfTests : Prop :=
  ∀ (v : Word) (s : State),
    (s.block.busy = true → exec (.cmdW v) s = .next { s with block := { s.block with errBusy := true } }) ∧
    (s.block.busy = false → v.extractLsb 31 4 ≠ 0#28 →
      exec (.cmdW v) s = .next { s with block := { s.block with errCmd := true } }) ∧
    (s.block.busy = false → v.extractLsb 31 4 = 0#28 →
      (v.extractLsb 3 0 = 0x0#4 → exec (.cmdW v) s = exec .nop s) ∧
      (v.extractLsb 3 0 = 0x1#4 → exec (.cmdW v) s = exec .init s) ∧
      (v.extractLsb 3 0 = 0x2#4 → exec (.cmdW v) s = exec .compress s) ∧
      (3 ≤ (v.extractLsb 3 0).toNat →
        exec (.cmdW v) s = .next { s with block := { s.block with errCmd := true } }))

/-- R130: the write of a command word, accepted, has the command's effect in its one step. -/
def Obligations.CommandWritePerformsCommand : Prop :=
  ∀ s : State, s.block.busy = false →
    exec (.cmdW 0x00000000#32) s = .next s ∧
    exec (.cmdW 0x00000001#32) s = .next { s with block := { s.block with
      h := #v[0x67452301#32, 0xEFCDAB89#32, 0x98BADCFE#32, 0x10325476#32, 0xC3D2E1F0#32] } } ∧
    (s.block.mvalid = 0xFFFF#16 →
      exec (.cmdW 0x00000002#32) s = .next { s with block := { s.block with
        work := { a := s.block.h[0], b := s.block.h[1], c := s.block.h[2], d := s.block.h[3], e := s.block.h[4] }
        rnd := 0#7
        busy := true } })

/-- R223: while busy a write to CMD, of any word and as each of the three commands, to H or to MSG only raises ERR_BUSY; a write to
STATUS or a reserved offset never raises it. -/
def Obligations.BusyWritesAreDropped : Prop :=
  (∀ (v : Word) (s : State), s.block.busy = true →
    exec .nop s = .next { s with block := { s.block with errBusy := true } } ∧
    exec .init s = .next { s with block := { s.block with errBusy := true } } ∧
    exec .compress s = .next { s with block := { s.block with errBusy := true } } ∧
    exec (.cmdW v) s = .next { s with block := { s.block with errBusy := true } } ∧
    exec (.h0W v) s = .next { s with block := { s.block with errBusy := true } } ∧
    exec (.h1W v) s = .next { s with block := { s.block with errBusy := true } } ∧
    exec (.h2W v) s = .next { s with block := { s.block with errBusy := true } } ∧
    exec (.h3W v) s = .next { s with block := { s.block with errBusy := true } } ∧
    exec (.h4W v) s = .next { s with block := { s.block with errBusy := true } } ∧
    exec (.msg0W v) s = .next { s with block := { s.block with errBusy := true } } ∧
    exec (.msg1W v) s = .next { s with block := { s.block with errBusy := true } } ∧
    exec (.msg2W v) s = .next { s with block := { s.block with errBusy := true } } ∧
    exec (.msg3W v) s = .next { s with block := { s.block with errBusy := true } } ∧
    exec (.msg4W v) s = .next { s with block := { s.block with errBusy := true } } ∧
    exec (.msg5W v) s = .next { s with block := { s.block with errBusy := true } } ∧
    exec (.msg6W v) s = .next { s with block := { s.block with errBusy := true } } ∧
    exec (.msg7W v) s = .next { s with block := { s.block with errBusy := true } } ∧
    exec (.msg8W v) s = .next { s with block := { s.block with errBusy := true } } ∧
    exec (.msg9W v) s = .next { s with block := { s.block with errBusy := true } } ∧
    exec (.msg10W v) s = .next { s with block := { s.block with errBusy := true } } ∧
    exec (.msg11W v) s = .next { s with block := { s.block with errBusy := true } } ∧
    exec (.msg12W v) s = .next { s with block := { s.block with errBusy := true } } ∧
    exec (.msg13W v) s = .next { s with block := { s.block with errBusy := true } } ∧
    exec (.msg14W v) s = .next { s with block := { s.block with errBusy := true } } ∧
    exec (.msg15W v) s = .next { s with block := { s.block with errBusy := true } }) ∧
  (∀ (v : Word) (s t : State), exec (.statusW v) s = .next t → t.block.errBusy = true → s.block.errBusy = true) ∧
  (∀ (off : Offset) (v : Word) (s t : State), exec (.rsvdW off v) s = .next t → t.block.errBusy = s.block.errBusy)

/-- R137: a read of H[i] returns H[i], idle or busy, and changes nothing of the block; `rdata` is the port's answer
(notes/assumptions/1.md). -/
def Obligations.DigestReadsReturnRegister : Prop :=
  ∀ s : State,
    decode (.bus (.busRead 0x10#8)) = .ok .h0R ∧ exec .h0R s = .next { s with rdata := s.block.h[0] } ∧
    decode (.bus (.busRead 0x14#8)) = .ok .h1R ∧ exec .h1R s = .next { s with rdata := s.block.h[1] } ∧
    decode (.bus (.busRead 0x18#8)) = .ok .h2R ∧ exec .h2R s = .next { s with rdata := s.block.h[2] } ∧
    decode (.bus (.busRead 0x1C#8)) = .ok .h3R ∧ exec .h3R s = .next { s with rdata := s.block.h[3] } ∧
    decode (.bus (.busRead 0x20#8)) = .ok .h4R ∧ exec .h4R s = .next { s with rdata := s.block.h[4] }

/-- R138: a write of H[i] uses all 32 bits when idle and is refused with ERR_BUSY when busy. -/
def Obligations.DigestWritesWhenIdle : Prop :=
  ∀ (v : Word) (s : State),
    (s.block.busy = false →
      exec (.h0W v) s = .next { s with block := { s.block with h := s.block.h.set 0 v } } ∧
      exec (.h1W v) s = .next { s with block := { s.block with h := s.block.h.set 1 v } } ∧
      exec (.h2W v) s = .next { s with block := { s.block with h := s.block.h.set 2 v } } ∧
      exec (.h3W v) s = .next { s with block := { s.block with h := s.block.h.set 3 v } } ∧
      exec (.h4W v) s = .next { s with block := { s.block with h := s.block.h.set 4 v } }) ∧
    (s.block.busy = true →
      exec (.h0W v) s = .next { s with block := { s.block with errBusy := true } } ∧
      exec (.h1W v) s = .next { s with block := { s.block with errBusy := true } } ∧
      exec (.h2W v) s = .next { s with block := { s.block with errBusy := true } } ∧
      exec (.h3W v) s = .next { s with block := { s.block with errBusy := true } } ∧
      exec (.h4W v) s = .next { s with block := { s.block with errBusy := true } }) ∧
    decode (.bus (.busWrite 0x10#8 v)) = .ok (.h0W v) ∧
    decode (.bus (.busWrite 0x14#8 v)) = .ok (.h1W v) ∧
    decode (.bus (.busWrite 0x18#8 v)) = .ok (.h2W v) ∧
    decode (.bus (.busWrite 0x1C#8 v)) = .ok (.h3W v) ∧
    decode (.bus (.busWrite 0x20#8 v)) = .ok (.h4W v)

/-- R139: an idle read of MSG[j] returns MSG[j] and changes nothing of the block. -/
def Obligations.WindowReadsWhenIdle : Prop :=
  ∀ s : State, s.block.busy = false →
    exec .msg0R s = .next { s with rdata := s.block.msg[0] } ∧
    exec .msg1R s = .next { s with rdata := s.block.msg[1] } ∧
    exec .msg2R s = .next { s with rdata := s.block.msg[2] } ∧
    exec .msg3R s = .next { s with rdata := s.block.msg[3] } ∧
    exec .msg4R s = .next { s with rdata := s.block.msg[4] } ∧
    exec .msg5R s = .next { s with rdata := s.block.msg[5] } ∧
    exec .msg6R s = .next { s with rdata := s.block.msg[6] } ∧
    exec .msg7R s = .next { s with rdata := s.block.msg[7] } ∧
    exec .msg8R s = .next { s with rdata := s.block.msg[8] } ∧
    exec .msg9R s = .next { s with rdata := s.block.msg[9] } ∧
    exec .msg10R s = .next { s with rdata := s.block.msg[10] } ∧
    exec .msg11R s = .next { s with rdata := s.block.msg[11] } ∧
    exec .msg12R s = .next { s with rdata := s.block.msg[12] } ∧
    exec .msg13R s = .next { s with rdata := s.block.msg[13] } ∧
    exec .msg14R s = .next { s with rdata := s.block.msg[14] } ∧
    exec .msg15R s = .next { s with rdata := s.block.msg[15] }

/-- R255: a read of MSG[j] while busy completes with a free draw and changes nothing of the block. That the draw is the opaque
`Config.freeDraw` at the counter `draws` is notes/assumptions/2.md. -/
def Obligations.WindowReadsWhenBusyAreFree : Prop :=
  ∀ s : State, s.block.busy = true →
    exec .msg0R s = .next { s with rdata := Config.freeDraw s.draws, draws := s.draws + 1 } ∧
    exec .msg1R s = .next { s with rdata := Config.freeDraw s.draws, draws := s.draws + 1 } ∧
    exec .msg2R s = .next { s with rdata := Config.freeDraw s.draws, draws := s.draws + 1 } ∧
    exec .msg3R s = .next { s with rdata := Config.freeDraw s.draws, draws := s.draws + 1 } ∧
    exec .msg4R s = .next { s with rdata := Config.freeDraw s.draws, draws := s.draws + 1 } ∧
    exec .msg5R s = .next { s with rdata := Config.freeDraw s.draws, draws := s.draws + 1 } ∧
    exec .msg6R s = .next { s with rdata := Config.freeDraw s.draws, draws := s.draws + 1 } ∧
    exec .msg7R s = .next { s with rdata := Config.freeDraw s.draws, draws := s.draws + 1 } ∧
    exec .msg8R s = .next { s with rdata := Config.freeDraw s.draws, draws := s.draws + 1 } ∧
    exec .msg9R s = .next { s with rdata := Config.freeDraw s.draws, draws := s.draws + 1 } ∧
    exec .msg10R s = .next { s with rdata := Config.freeDraw s.draws, draws := s.draws + 1 } ∧
    exec .msg11R s = .next { s with rdata := Config.freeDraw s.draws, draws := s.draws + 1 } ∧
    exec .msg12R s = .next { s with rdata := Config.freeDraw s.draws, draws := s.draws + 1 } ∧
    exec .msg13R s = .next { s with rdata := Config.freeDraw s.draws, draws := s.draws + 1 } ∧
    exec .msg14R s = .next { s with rdata := Config.freeDraw s.draws, draws := s.draws + 1 } ∧
    exec .msg15R s = .next { s with rdata := Config.freeDraw s.draws, draws := s.draws + 1 }

/-- R140: a write of MSG[j] sets the word and its MVALID bit when idle and is refused with ERR_BUSY when busy. -/
def Obligations.WindowWritesMarkValid : Prop :=
  ∀ (v : Word) (s : State),
    (s.block.busy = false →
      exec (.msg0W v) s = .next { s with block := { s.block with
        msg := s.block.msg.set 0 v, mvalid := s.block.mvalid ||| 0x0001#16 } } ∧
      exec (.msg1W v) s = .next { s with block := { s.block with
        msg := s.block.msg.set 1 v, mvalid := s.block.mvalid ||| 0x0002#16 } } ∧
      exec (.msg2W v) s = .next { s with block := { s.block with
        msg := s.block.msg.set 2 v, mvalid := s.block.mvalid ||| 0x0004#16 } } ∧
      exec (.msg3W v) s = .next { s with block := { s.block with
        msg := s.block.msg.set 3 v, mvalid := s.block.mvalid ||| 0x0008#16 } } ∧
      exec (.msg4W v) s = .next { s with block := { s.block with
        msg := s.block.msg.set 4 v, mvalid := s.block.mvalid ||| 0x0010#16 } } ∧
      exec (.msg5W v) s = .next { s with block := { s.block with
        msg := s.block.msg.set 5 v, mvalid := s.block.mvalid ||| 0x0020#16 } } ∧
      exec (.msg6W v) s = .next { s with block := { s.block with
        msg := s.block.msg.set 6 v, mvalid := s.block.mvalid ||| 0x0040#16 } } ∧
      exec (.msg7W v) s = .next { s with block := { s.block with
        msg := s.block.msg.set 7 v, mvalid := s.block.mvalid ||| 0x0080#16 } } ∧
      exec (.msg8W v) s = .next { s with block := { s.block with
        msg := s.block.msg.set 8 v, mvalid := s.block.mvalid ||| 0x0100#16 } } ∧
      exec (.msg9W v) s = .next { s with block := { s.block with
        msg := s.block.msg.set 9 v, mvalid := s.block.mvalid ||| 0x0200#16 } } ∧
      exec (.msg10W v) s = .next { s with block := { s.block with
        msg := s.block.msg.set 10 v, mvalid := s.block.mvalid ||| 0x0400#16 } } ∧
      exec (.msg11W v) s = .next { s with block := { s.block with
        msg := s.block.msg.set 11 v, mvalid := s.block.mvalid ||| 0x0800#16 } } ∧
      exec (.msg12W v) s = .next { s with block := { s.block with
        msg := s.block.msg.set 12 v, mvalid := s.block.mvalid ||| 0x1000#16 } } ∧
      exec (.msg13W v) s = .next { s with block := { s.block with
        msg := s.block.msg.set 13 v, mvalid := s.block.mvalid ||| 0x2000#16 } } ∧
      exec (.msg14W v) s = .next { s with block := { s.block with
        msg := s.block.msg.set 14 v, mvalid := s.block.mvalid ||| 0x4000#16 } } ∧
      exec (.msg15W v) s = .next { s with block := { s.block with
        msg := s.block.msg.set 15 v, mvalid := s.block.mvalid ||| 0x8000#16 } }) ∧
    (s.block.busy = true →
      exec (.msg0W v) s = .next { s with block := { s.block with errBusy := true } } ∧
      exec (.msg1W v) s = .next { s with block := { s.block with errBusy := true } } ∧
      exec (.msg2W v) s = .next { s with block := { s.block with errBusy := true } } ∧
      exec (.msg3W v) s = .next { s with block := { s.block with errBusy := true } } ∧
      exec (.msg4W v) s = .next { s with block := { s.block with errBusy := true } } ∧
      exec (.msg5W v) s = .next { s with block := { s.block with errBusy := true } } ∧
      exec (.msg6W v) s = .next { s with block := { s.block with errBusy := true } } ∧
      exec (.msg7W v) s = .next { s with block := { s.block with errBusy := true } } ∧
      exec (.msg8W v) s = .next { s with block := { s.block with errBusy := true } } ∧
      exec (.msg9W v) s = .next { s with block := { s.block with errBusy := true } } ∧
      exec (.msg10W v) s = .next { s with block := { s.block with errBusy := true } } ∧
      exec (.msg11W v) s = .next { s with block := { s.block with errBusy := true } } ∧
      exec (.msg12W v) s = .next { s with block := { s.block with errBusy := true } } ∧
      exec (.msg13W v) s = .next { s with block := { s.block with errBusy := true } } ∧
      exec (.msg14W v) s = .next { s with block := { s.block with errBusy := true } } ∧
      exec (.msg15W v) s = .next { s with block := { s.block with errBusy := true } })

/-- R140, corner cases: window words written in any order and any number of times, idle; each slot keeps the last value written to it,
and exactly the written slots become valid. `ws` is the list of slots and values, oldest first. -/
def Obligations.WindowLoadInAnyOrder : Prop :=
  ∀ (ws : List (Fin 16 × Word)) (s : State), s.block.busy = false →
    ∃ t : State,
      execAll (ws.map fun x => decodeWrite (msgOffset x.1) x.2) s = .next t ∧
      t = { s with block := { s.block with msg := t.block.msg, mvalid := t.block.mvalid } } ∧
      ∀ j : Fin 16,
        t.block.mvalid.getLsbD j = (s.block.mvalid.getLsbD j || ws.any fun x => x.1 == j) ∧
        t.block.msg[j] = ((ws.reverse.find? fun x => x.1 == j).map Prod.snd).getD s.block.msg[j]

/-- R141 and the layout of R28: what a STATUS read returns, field by field; reserved bits read as 0. -/
def Obligations.StatusReadLayout : Prop :=
  decode (.bus (.busRead 0x04#8)) = .ok .statusR ∧
  ∀ s : State,
    exec .statusR s = .next { s with rdata := s.block.status } ∧
    s.block.status =
      s.block.mvalid ++ 0#5 ++ BitVec.ofBool s.block.errIncomplete ++ BitVec.ofBool s.block.errBusy ++
        BitVec.ofBool s.block.errCmd ++ 0#7 ++ BitVec.ofBool s.block.busy

/-- R142: a STATUS write clears the error bits written with 1, at any time, and ignores every other bit. -/
def Obligations.StatusWriteOneToClear : Prop :=
  ∀ (v : Word) (s : State),
    decode (.bus (.busWrite 0x04#8 v)) = .ok (.statusW v) ∧
    exec (.statusW v) s = .next { s with block := { s.block with
      errCmd := s.block.errCmd && !v.getLsbD 8
      errBusy := s.block.errBusy && !v.getLsbD 9
      errIncomplete := s.block.errIncomplete && !v.getLsbD 10 } }

/-- R143: a read of CMD returns 0 in every state. -/
def Obligations.CommandReadReturnsZero : Prop :=
  decode (.bus (.busRead 0x00#8)) = .ok .cmdR ∧ ∀ s : State, exec .cmdR s = .next { s with rdata := 0#32 }

/-- R53: a read of a reserved offset returns 0, a write there changes no state and raises no error, idle or busy. The reserved offsets
are those of R52. -/
def Obligations.ReservedOffsetsReadZeroIgnoreWrites : Prop :=
  ∀ off : Offset, off.toNat % 4 = 0 →
    (off = 0x08#8 ∨ off = 0x0C#8 ∨ (0x24 ≤ off.toNat ∧ off.toNat ≤ 0x3C) ∨ 0x80 ≤ off.toNat) →
    ∀ (v : Word) (s : State),
      decode (.bus (.busRead off)) = .ok (.rsvdR off) ∧ exec (.rsvdR off) s = .next { s with rdata := 0#32 } ∧
      decode (.bus (.busWrite off v)) = .ok (.rsvdW off v) ∧ exec (.rsvdW off v) s = .next s

/-- R55: a read changes nothing of the block, and repeated with nothing between it returns the same word and leaves the same state,
except a read of MSG while busy. Where the word goes (`rdata`) is the model's choice, notes/assumptions/1.md; that a read of MSG while
busy moves on a counter of free draws (`draws`) is notes/assumptions/2.md. -/
def Obligations.ReadsHaveNoSideEffects : Prop :=
  ∀ (i : Instr) (s : State), isRead i = true →
    ∃ t : State,
      exec i s = .next t ∧ t = { s with rdata := t.rdata, draws := t.draws } ∧
      ((∀ j : Fin 16, i ≠ decodeRead (msgOffset j)) ∨ s.block.busy = false →
        t.draws = s.draws ∧ exec i t = .next t)

/-- R131: no command and no access stops the machine, whatever the data. -/
def Obligations.EveryInstructionAnswersNext : Prop := ∀ (i : Instr) (s : State), ∃ t : State, exec i s = .next t

/-- R225 and R226: an access that raises an error has no other effect, so it raises at most one. -/
def Obligations.ErrorsArePrecise : Prop :=
  ∀ (i : Instr) (s t : State), exec i s = .next t →
    (s.block.errCmd = false → t.block.errCmd = true → t = { s with block := { s.block with errCmd := true } }) ∧
    (s.block.errBusy = false → t.block.errBusy = true → t = { s with block := { s.block with errBusy := true } }) ∧
    (s.block.errIncomplete = false → t.block.errIncomplete = true →
      t = { s with block := { s.block with errIncomplete := true } })

/-- R227 and R28: an error bit stays 1 until a step performs the host's write of 1 to it at STATUS, or a reset event. That reset's values
are loaded at its assertion already is notes/assumptions/7.md. -/
def Obligations.ErrorBitsAreSticky : Prop :=
  ∀ s t : State, step s = .next t →
    (s.block.errCmd = true → t.block.errCmd = false →
      (s.inReset = false ∧ s.engineTurn = false ∧
        ∃ v rest, s.pending = .access (.busWrite 0x04#8 v) :: rest ∧ v.getLsbD 8 = true) ∨
      (s.inReset = false ∧ s.engineTurn = false ∧ ∃ rest, s.pending = .resetAssert :: rest) ∨ (s.inReset = true ∧ ∃ rest, s.pending = .resetDeassert :: rest)) ∧
    (s.block.errBusy = true → t.block.errBusy = false →
      (s.inReset = false ∧ s.engineTurn = false ∧
        ∃ v rest, s.pending = .access (.busWrite 0x04#8 v) :: rest ∧ v.getLsbD 9 = true) ∨
      (s.inReset = false ∧ s.engineTurn = false ∧ ∃ rest, s.pending = .resetAssert :: rest) ∨ (s.inReset = true ∧ ∃ rest, s.pending = .resetDeassert :: rest)) ∧
    (s.block.errIncomplete = true → t.block.errIncomplete = false →
      (s.inReset = false ∧ s.engineTurn = false ∧
        ∃ v rest, s.pending = .access (.busWrite 0x04#8 v) :: rest ∧ v.getLsbD 10 = true) ∨
      (s.inReset = false ∧ s.engineTurn = false ∧ ∃ rest, s.pending = .resetAssert :: rest) ∨ (s.inReset = true ∧ ∃ rest, s.pending = .resetDeassert :: rest))

/-- R196: round t, as the engine's one step. -/
def Obligations.EngineRoundStep : Prop :=
  ∀ (s : State) (t : Nat), s.block.busy = true → s.block.rnd.toNat = t → t ≤ 79 →
    ∀ (msg : Vector Word 16),
      msg = (if 16 ≤ t then
        s.block.msg.set (t % 16)
          (rotl (s.block.msg[(t - 3) % 16] ^^^ s.block.msg[(t - 8) % 16] ^^^ s.block.msg[(t - 14) % 16]
            ^^^ s.block.msg[t % 16]) 1)
        else s.block.msg) →
      engineStep s = .next { s with
        block := { s.block with
          msg := msg
          work := {
            a := rotl s.block.work.a 5 + roundFn t s.block.work.b s.block.work.c s.block.work.d + s.block.work.e
              + roundConst t + msg[t % 16]
            b := s.block.work.a
            c := rotl s.block.work.b 30
            d := s.block.work.c
            e := s.block.work.d }
          rnd := BitVec.ofNat 7 (t + 1) } }

/-- R198: the fold, as the engine's one step. -/
def Obligations.EngineFoldStep : Prop :=
  ∀ s : State, s.block.busy = true → s.block.rnd = 80#7 →
    engineStep s = .next { s with
      block := { s.block with
        h := #v[s.block.h[0] + s.block.work.a, s.block.h[1] + s.block.work.b, s.block.h[2] + s.block.work.c,
          s.block.h[3] + s.block.work.d, s.block.h[4] + s.block.work.e]
        mvalid := 0#16
        busy := false } }

/-- R58 and R259: the engine has a step only while BUSY = 1; on its turn, the step of the machine is that step. That the turns are a
finite list, of which each step uses one, is the model's choice, notes/assumptions/3.md. -/
def Obligations.StepRunsEngineOnItsTurn : Prop :=
  (∀ s : State, s.engineTurn = true ↔
    s.block.busy = true ∧ (s.schedule = [] ∨ (∃ l, s.schedule = .engine :: l) ∨ s.pending = [])) ∧
  ∀ s : State, s.inReset = false → s.engineTurn = true → step s = engineStep { s with schedule := s.schedule.tail }

/-- R190 and R195: the round function and constant by inclusive ranges. -/
def Obligations.RoundFunctionAndConstantRanges : Prop :=
  ∀ (t : Nat) (b c d : Word), t ≤ 79 →
    (t ≤ 19 → roundFn t b c d = (b &&& c) ||| (~~~b &&& d) ∧ roundConst t = 0x5A827999#32) ∧
    (20 ≤ t → t ≤ 39 → roundFn t b c d = b ^^^ c ^^^ d ∧ roundConst t = 0x6ED9EBA1#32) ∧
    (40 ≤ t → t ≤ 59 →
      roundFn t b c d = (b &&& c) ||| (b &&& d) ||| (c &&& d) ∧ roundConst t = 0x8F1BBCDC#32) ∧
    (60 ≤ t → roundFn t b c d = b ^^^ c ^^^ d ∧ roundConst t = 0xCA62C1D6#32)

/-- R191: choose, bit by bit, its `xor` and `+` forms, and its corner cases and example. -/
def Obligations.ChooseSelectsBits : Prop :=
  (∀ (b c d : Word) (k : Nat), k < 32 → (roundFn 0 b c d).getLsbD k = if b.getLsbD k then c.getLsbD k else d.getLsbD k) ∧
  (∀ b c d : Word, (b &&& c) &&& (~~~b &&& d) = 0#32 ∧
    roundFn 0 b c d = (b &&& c) ^^^ (~~~b &&& d) ∧ roundFn 0 b c d = (b &&& c) + (~~~b &&& d)) ∧
  (∀ c d : Word, roundFn 0 0xFFFFFFFF#32 c d = c ∧ roundFn 0 0#32 c d = d) ∧
  (∀ (t : Nat) (b c d : Word), t ≤ 19 → roundFn t b c d = roundFn 0 b c d) ∧
  roundFn 0 0xFFFF0000#32 0x12345678#32 0x9ABCDEF0#32 = 0x1234DEF0#32

/-- R192 and R194: parity, bit by bit, in both of its ranges, and its corner case and examples. -/
def Obligations.ParityCountsOddBits : Prop :=
  (∀ (t : Nat) (b c d : Word) (k : Nat), (20 ≤ t ∧ t ≤ 39) ∨ (60 ≤ t ∧ t ≤ 79) → k < 32 →
    (roundFn t b c d).getLsbD k =
      decide (((b.getLsbD k).toNat + (c.getLsbD k).toNat + (d.getLsbD k).toNat) % 2 = 1)) ∧
  (∀ (t : Nat) (x y : Word), (20 ≤ t ∧ t ≤ 39) ∨ (60 ≤ t ∧ t ≤ 79) →
    roundFn t x x y = y ∧ roundFn t x y x = y ∧ roundFn t y x x = y) ∧
  roundFn 20 0xFFFF0000#32 0x12345678#32 0x9ABCDEF0#32 = 0x77778888#32 ∧
  roundFn 60 0xAAAAAAAA#32 0xCCCCCCCC#32 0xF0F0F0F0#32 = 0x96969696#32

/-- R193: majority, bit by bit, its `xor` form, its symmetry and its example. -/
def Obligations.MajorityCountsBits : Prop :=
  (∀ (t : Nat) (b c d : Word) (k : Nat), 40 ≤ t → t ≤ 59 → k < 32 →
    (roundFn t b c d).getLsbD k =
      decide (2 ≤ (b.getLsbD k).toNat + (c.getLsbD k).toNat + (d.getLsbD k).toNat)) ∧
  (∀ (t : Nat) (b c d : Word), 40 ≤ t → t ≤ 59 →
    roundFn t b c d = (b &&& c) ^^^ (b &&& d) ^^^ (c &&& d) ∧
    roundFn t b c d = roundFn t c b d ∧ roundFn t b c d = roundFn t b d c) ∧
  roundFn 40 0xFFFF0000#32 0x12345678#32 0x9ABCDEF0#32 = 0x9ABC5670#32

/-- R14: bit k of ROTL(x, n) is bit (k - n) mod 32 of x. -/
def Obligations.RotationMovesBits : Prop :=
  ∀ (x : Word) (n k : Nat), 1 ≤ n → n ≤ 31 → k < 32 → (rotl x n).getLsbD k = x.getLsbD ((k + 32 - n) % 32)

/-- R171: the schedule is the block's words, then the recurrence, for t = 0..79. -/
def Obligations.ScheduleRecurrence : Prop :=
  ∀ m : Vector Word 16,
    (∀ t : Fin 16, scheduleWord m t = m[t]) ∧
    (∀ t : Nat, 16 ≤ t → t ≤ 79 →
      scheduleWord m t =
        rotl (scheduleWord m (t - 3) ^^^ scheduleWord m (t - 8) ^^^ scheduleWord m (t - 14) ^^^ scheduleWord m (t - 16)) 1)

/-- R177: the expansion is linear over xor, with the two corner cases that follow. -/
def Obligations.ScheduleIsXorLinear : Prop :=
  (∀ (m m' m'' : Vector Word 16) (t : Nat), (∀ j : Fin 16, m''[j] = m[j] ^^^ m'[j]) → t ≤ 79 →
    scheduleWord m'' t = scheduleWord m t ^^^ scheduleWord m' t) ∧
  (∀ t : Nat, t ≤ 79 → scheduleWord (Vector.replicate 16 0#32) t = 0#32) ∧
  scheduleWord (Vector.replicate 16 0xFFFFFFFF#32) 16 = 0#32 ∧
  scheduleWord (Vector.replicate 16 0xFFFFFFFF#32) 17 = 0#32 ∧
  scheduleWord (Vector.replicate 16 0xFFFFFFFF#32) 18 = 0#32 ∧
  scheduleWord (Vector.replicate 16 0xFFFFFFFF#32) 19 = 0xFFFFFFFF#32

/-- R174: the window after round t of a COMPRESS holds in slot j the latest schedule word whose index is j mod 16; from round 15 on it
is w[t-15..t]; so the slots round t reads are those of the recurrence. `b` is the block right after the start. -/
def Obligations.WindowHoldsLatestScheduleWords : Prop :=
  ∀ (b : Block), b.rnd = 0#7 → ∀ t : Nat, t ≤ 79 →
    (∀ (j : Fin 16) (s : Nat), s ≤ max t 15 → s % 16 = j → (∀ r : Nat, r ≤ max t 15 → r % 16 = j → r ≤ s) →
      (Block.engineRound^[t + 1] b).msg[j] = scheduleWord b.msg s) ∧
    (15 ≤ t → ∀ s : Nat, t - 15 ≤ s → s ≤ t → (Block.engineRound^[t + 1] b).msg[s % 16] = scheduleWord b.msg s) ∧
    (16 ≤ t →
      (Block.engineRound^[t] b).msg[(t - 3) % 16] = scheduleWord b.msg (t - 3) ∧
      (Block.engineRound^[t] b).msg[(t - 8) % 16] = scheduleWord b.msg (t - 8) ∧
      (Block.engineRound^[t] b).msg[(t - 14) % 16] = scheduleWord b.msg (t - 14) ∧
      (Block.engineRound^[t] b).msg[t % 16] = scheduleWord b.msg (t - 16))

/-- R176: the word the window delivers to round t is w[t], so t rounds of the engine are t rounds over the 80-word schedule. -/
def Obligations.WindowDeliversSchedule : Prop :=
  ∀ b : Block, b.rnd = 0#7 → ∀ t : Nat, t ≤ 80 →
    (t ≤ 79 → (windowForRound (Block.engineRound^[t] b).msg t)[t % 16] = scheduleWord b.msg t) ∧
    (Block.engineRound^[t] b).work = rounds (scheduleWord b.msg) t b.work ∧
    (Block.engineRound^[t] b).rnd = BitVec.ofNat 7 t

/-- R199: the pure compression function, in the pseudocode's own form, for a schedule w of m. -/
def Obligations.CompressIsFoldOfEightyRounds : Prop :=
  ∀ (h : Vector Word 5) (m : Vector Word 16) (x : Nat → Work),
    x 0 = { a := h[0], b := h[1], c := h[2], d := h[3], e := h[4] } →
    (∀ t : Nat, t ≤ 79 →
      x (t + 1) = {
        a := rotl (x t).a 5 + roundFn t (x t).b (x t).c (x t).d + (x t).e + roundConst t + scheduleWord m t
        b := (x t).a
        c := rotl (x t).b 30
        d := (x t).c
        e := (x t).d }) →
    compress h m = #v[h[0] + (x 80).a, h[1] + (x 80).b, h[2] + (x 80).c, h[3] + (x 80).d, h[4] + (x 80).e]

/-- The state after reset meets the invariant. -/
def Obligations.ResetMeetsBlockInvariant : Prop := State.reset.Inv

/-- Every step of either agent keeps the invariant: RND at most 80, MVALID full while busy, and the window and A..E equal to the rounds
done so far over some block (R26, R134, R135, R174, R196). -/
def Obligations.StepKeepsBlockInvariant : Prop := ∀ s t : State, s.Inv → step s = .next t → t.Inv

/-- Under the invariant no engine step is stuck: the machine never faults. -/
def Obligations.NoFaultUnderInvariant : Prop := ∀ (s : State) (r : Fault), s.Inv → step s ≠ .fault r

/-- R136, R199, R175, R259: whatever admitted host accesses interleave with it and whatever the turns, an accepted COMPRESS reaches its
fold, within 81 steps plus one per turn in the list of turns; there H is compress(h, m), MSG is w[64..79], MVALID and BUSY are 0;
before it BUSY is 1 and H is the old value. The finite list of turns is notes/assumptions/3.md. -/
def Obligations.CompressReachesItsFold : Prop :=
  ∀ s t : State, s.inReset = false → s.block.busy = false → s.block.mvalid = 0xFFFF#16 →
    (∀ x ∈ s.pending, x.isAdmitted = true) → exec .compress s = .next t →
    ∃ n : Nat, 81 ≤ n ∧ n ≤ 81 + s.schedule.length ∧
      (∃ u : State, steps n t = .next u ∧ u.block.busy = false ∧
        u.block.h = compress s.block.h s.block.msg ∧
        (∀ j : Fin 16, u.block.msg[j] = scheduleWord s.block.msg (64 + j)) ∧ u.block.mvalid = 0#16) ∧
      ∀ k : Nat, k < n → ∃ v : State, steps k t = .next v ∧ v.block.busy = true ∧ v.block.h = s.block.h

/-- R197: with no turn given to the host, a COMPRESS is exactly 81 engine steps after its start: rounds in order, then the fold. That an
empty list of turns gives every turn to the engine is the model's choice, notes/assumptions/3.md. -/
def Obligations.CompressIsEightyOneEngineSteps : Prop :=
  ∀ s t : State, s.inReset = false → s.block.busy = false → s.block.mvalid = 0xFFFF#16 → s.schedule = [] →
    exec .compress s = .next t →
    (∀ k : Nat, k ≤ 80 → ∃ v : State, steps k t = .next v ∧ v.block.busy = true ∧ v.block.rnd = BitVec.ofNat 7 k ∧
      v.pending = s.pending) ∧
    ∃ u : State, steps 81 t = .next u ∧ u.block.busy = false ∧ u.pending = s.pending

/-- R27 and R197: while busy no access changes anything of the block but the error bits. -/
def Obligations.BusyAccessChangesOnlyErrorBits : Prop :=
  ∀ (i : Instr) (s t : State), s.block.busy = true → exec i s = .next t →
    t.block = { s.block with
      errCmd := t.block.errCmd, errBusy := t.block.errBusy, errIncomplete := t.block.errIncomplete }

/-- R22: H changes only in a step that performs the fold, INIT or a host write of H while idle, or a reset event. That reset's values are
loaded at its assertion already is notes/assumptions/7.md. -/
def Obligations.DigestChangesOnlyByRule : Prop :=
  ∀ s t : State, step s = .next t → t.block.h ≠ s.block.h →
    (s.inReset = false ∧ s.engineTurn = true ∧ s.block.rnd = 80#7) ∨
    (s.inReset = false ∧ s.block.busy = false ∧ ∃ rest, s.pending = .access (.busWrite 0x00#8 0x00000001#32) :: rest) ∨
    (s.inReset = false ∧ s.block.busy = false ∧
      ∃ (i : Fin 5) (v : Word) (rest : List HostItem), s.pending = .access (.busWrite (hOffset i) v) :: rest) ∨
    (s.inReset = false ∧ s.engineTurn = false ∧ ∃ rest, s.pending = .resetAssert :: rest) ∨
    (s.inReset = true ∧ ∃ rest, s.pending = .resetDeassert :: rest)

/-- R59 and R27: BUSY falls only in the fold's step, which folds H and clears MVALID too, or in a reset event; it rises only in the step
of an accepted COMPRESS write. That reset's values are loaded at its assertion already is notes/assumptions/7.md. -/
def Obligations.BusyFallsOnlyWithTheFold : Prop :=
  ∀ s t : State, step s = .next t →
    (s.block.busy = true → t.block.busy = false →
      (s.inReset = false ∧ s.engineTurn = true ∧ s.block.rnd = 80#7 ∧
        t.block.h = foldSum s.block.h s.block.work ∧ t.block.mvalid = 0#16 ∧ t.block.msg = s.block.msg) ∨
      (s.inReset = false ∧ s.engineTurn = false ∧ ∃ rest, s.pending = .resetAssert :: rest) ∨
      (s.inReset = true ∧ ∃ rest, s.pending = .resetDeassert :: rest)) ∧
    (s.block.busy = false → t.block.busy = true →
      s.inReset = false ∧ s.block.mvalid = 0xFFFF#16 ∧
        ∃ rest, s.pending = .access (.busWrite 0x00#8 0x00000002#32) :: rest)

/-- A step runs the decoded instruction: at the host's turn, an encoded form that decodes to i (a command word is delivered by its CMD
write) makes the step exec of i, with the item taken off the pending list, the turn used up while busy, and a read's word kept. The
model's choices in it: the pending list and how a command word is delivered (notes/assumptions/6.md, 15.md), the one turn used while busy
(notes/assumptions/3.md), the word kept in `reads` (notes/assumptions/1.md). -/
def Obligations.StepRunsDecodedAccess : Prop :=
  ∀ (s : State) (x : Encoded) (i : Instr) (rest : List HostItem),
    s.inReset = false → s.engineTurn = false → decode x = .ok i → s.pending = .access x.toAccess :: rest →
    step s = andThen (exec i { s.useTurn with pending := rest }) (fun t => t.keepRead x.toAccess.dir)

/-- R86: one read of a polling loop; the loop is over when (result and MASK) = VAL, and otherwise stays to read again. That its word goes
to `rdata` and is not kept in `reads`, and that the loop stays first in the pending list, is the model's choice,
notes/assumptions/13.md; the turn used while busy is notes/assumptions/3.md. -/
def Obligations.PollRepeatsUntilMatch : Prop :=
  ∀ (s t : State) (off : Offset) (mask val : Word) (i : Instr) (rest : List HostItem),
    s.inReset = false → s.engineTurn = false → decode (.bus (.busRead off)) = .ok i →
    s.pending = .poll off mask val :: rest → exec i s.useTurn = .next t →
    step s = .next (if t.rdata &&& mask = val then { t with pending := rest } else t)

/-- R54: an access that is not of 32 bits, or is not at a multiple of 4, is refused by name, and so is a polling loop at such an
offset. That the width is tested first is the model's choice, notes/assumptions/8.md. -/
def Obligations.NonAdmittedAccessIsRefused : Prop :=
  (∀ (s : State) (a : Access) (rest : List HostItem),
    s.inReset = false → s.engineTurn = false → s.pending = .access a :: rest →
    (a.bits ≠ 32 → step s = .refused (.accessWidth a.bits)) ∧
    (a.bits = 32 → a.offset.toNat % 4 ≠ 0 → step s = .refused (.misaligned a.offset))) ∧
  (∀ (s : State) (off : Offset) (mask val : Word) (rest : List HostItem),
    s.inReset = false → s.engineTurn = false → s.pending = .poll off mask val :: rest →
    off.toNat % 4 ≠ 0 → step s = .refused (.misaligned off))

/-- R234 and R260: idle, with nothing pending outside, the block holds its state; such a state is final, and a busy one never is. The
model's part in it: that such a step leaves the state as it is, also in reset, is notes/assumptions/9.md (DEDUCED); that a block held in
reset counts as final is notes/assumptions/23.md; that busy with nothing pending it is the engine's turn, whatever the list of turns, is
notes/assumptions/3.md. -/
def Obligations.IdleBlockHoldsItsState : Prop :=
  (∀ s : State, s.isFinal = true → step s = .next s) ∧
  (∀ s : State, s.block.busy = true → s.isFinal = false) ∧
  (∀ s : State, s.inReset = false → s.block.busy = true → s.pending = [] → s.engineTurn = true)

/-- Encoding then decoding gives back every well-formed instruction, with every operand at every value. -/
def Obligations.DecodeOfEncode : Prop := ∀ i : Instr, i.wf = true → decode (encode i) = .ok i

/-- Decoding gives only well-formed instructions, and each has one encoded form: "the exact 32-bit word is the only spelling of each"
(R82). -/
def Obligations.EncodeOfDecode : Prop := ∀ (x : Encoded) (i : Instr), decode x = .ok i → i.wf = true ∧ encode i = x

/-- R82, R84, R85: some encoded forms written out from the tables decode to their instructions, and reserved command words to none. -/
def Obligations.SampleFormsDecode : Prop :=
  decode (.cmd 0b00000000000000000000000000000000#32) = .ok .nop ∧
  decode (.cmd 0b00000000000000000000000000000001#32) = .ok .init ∧
  decode (.cmd 0b00000000000000000000000000000010#32) = .ok .compress ∧
  decode (.cmd 0x00000003#32) = .error (.illegalCommand 0x00000003#32) ∧
  decode (.cmd 0x00000012#32) = .error (.illegalCommand 0x00000012#32) ∧
  decode (.bus { offset := 0x00#8, bits := 32, dir := .write 0x00000012#32 }) = .ok (.cmdW 0x00000012#32) ∧
  decode (.bus { offset := 0x04#8, bits := 32, dir := .read }) = .ok .statusR ∧
  decode (.bus { offset := 0x20#8, bits := 32, dir := .write 0xC3D2E1F0#32 }) = .ok (.h4W 0xC3D2E1F0#32) ∧
  decode (.bus { offset := 0x7C#8, bits := 32, dir := .read }) = .ok .msg15R ∧
  decode (.bus { offset := 0xFC#8, bits := 32, dir := .read }) = .ok (.rsvdR 0xFC#8) ∧
  decode (.bus { offset := 0x10#8, bits := 16, dir := .read }) = .error (.accessWidth 16) ∧
  decode (.bus { offset := 0x12#8, bits := 32, dir := .read }) = .error (.misaligned 0x12#8)

/-- R86: reading back the listing line of a program line gives that line, with every operand at every value. That lower-case digits
are read too is notes/assumptions/10.md. -/
def Obligations.ListingReadsBack : Prop := ∀ op : HostOp, parseListing op.listing = some op

/-- R105: the properties of pad(m), for every message the driver accepts. -/
def Obligations.PaddingProperties : Prop :=
  ∀ m : List Byte, m.length ≤ 2 ^ 61 - 1 →
    (pad m).length % 64 = 0 ∧ m.length + 9 ≤ (pad m).length ∧ (pad m).take m.length = m ∧
    ((pad m).drop ((pad m).length - 8)).foldl (fun acc b => acc * 256 + b.toNat) 0 = 8 * m.length ∧
    (blocksOf (pad m)).length = (m.length + 8) / 64 + 1 ∧
    (m.length = 0 → (pad m).length = 64) ∧ (m.length = 55 → (pad m).length = 64) ∧ (m.length = 56 → (pad m).length = 128)

/-- R102, R103, R104: after the message comes the byte 0x80, then pad_count zeros, up to the 8 bytes of the length trailer. For a message
of more than 2^61 - 1 bytes the spec gives no padding (R101); that pad has this form there too is the model's choice,
notes/assumptions/22.md. -/
def Obligations.PaddingTerminatorAndZeros : Prop :=
  ∀ m : List Byte,
    (pad m).length = m.length + 1 + (64 - (m.length + 1 + 8) % 64) % 64 + 8 ∧
    (pad m)[m.length]? = some 0x80#8 ∧
    ∀ k : Nat, m.length < k → k < (pad m).length - 8 → (pad m)[k]? = some 0x00#8

/-- R17 and R106: be32 puts byte k in the most significant place, and is the inverse of bytes_be on words. -/
def Obligations.WordsAreBigEndian : Prop :=
  (∀ (m : List Byte) (k : Nat),
    (be32 m k).extractLsb 31 24 = byteAt m k ∧ (be32 m k).extractLsb 23 16 = byteAt m (k + 1) ∧
    (be32 m k).extractLsb 15 8 = byteAt m (k + 2) ∧ (be32 m k).extractLsb 7 0 = byteAt m (k + 3)) ∧
  (∀ v : Word, be32 (bytesBe v.toNat 4) 0 = v) ∧
  be32 [0x61#8, 0x62#8, 0x63#8, 0x80#8] 0 = 0x61626380#32

/-- R101, R107, R110, R200, R227: without its input the driver makes no access, and says so by a name of its own; a message over
2^61 - 1 bytes is refused by another. For a shorter one the program is that of R107, line by line; the digest is the chain of compress
over its padded blocks, in order, from IV; and the program run on an idle block, whatever the list of turns, returns that digest if the
error bits were clear, and after one restart if they were not. A final STATUS with an error bit gives no digest. The names, the number of
steps and of restarts allowed, and that the last six words read are the program's are the model's choice, notes/assumptions/24.md. -/
def Obligations.DigestChainsBlocksOrRefuses : Prop :=
  driverProgram none = .error .inputNotObtained ∧
  (∀ (n restarts : Nat) (s : State), computeDigest n restarts none s = .error .inputNotObtained) ∧
  (∀ (old : List Word) (h0 h1 h2 h3 h4 status : Word),
    driverResult (old ++ [h0, h1, h2, h3, h4, status]) =
      if status.getLsbD 8 || status.getLsbD 9 || status.getLsbD 10 then .error .interfaceError
      else .ok #v[h0, h1, h2, h3, h4]) ∧
  ∀ m : List Byte,
    (2 ^ 61 - 1 < m.length →
      driverProgram (some m) = .error .messageTooLong ∧ digest m = none ∧
      ∀ (n restarts : Nat) (s : State), computeDigest n restarts (some m) s = .error .messageTooLong) ∧
    (m.length ≤ 2 ^ 61 - 1 →
      driverProgram (some m) = .ok (
        [.sw 0x00#8 0x00000001#32] ++
        ((List.range ((pad m).length / 64)).flatMap fun n =>
          ((List.finRange 16).map fun j => .sw (BitVec.ofNat 8 (0x40 + 4 * j)) (be32 (pad m) (64 * n + 4 * j))) ++
          [.sw 0x00#8 0x00000002#32, .poll 0x04#8 0x00000001#32 0x00000000#32]) ++
        [.lw 0x10#8, .lw 0x14#8, .lw 0x18#8, .lw 0x1C#8, .lw 0x20#8, .lw 0x04#8]) ∧
      ∃ c : Nat → Vector Word 5,
        c 0 = #v[0x67452301#32, 0xEFCDAB89#32, 0x98BADCFE#32, 0x10325476#32, 0xC3D2E1F0#32] ∧
        (∀ n : Nat, n < (pad m).length / 64 → c (n + 1) = compress (c n) (blockWords (pad m) n)) ∧
        digest m = some (c ((pad m).length / 64)) ∧
        ∀ s : State, s.inReset = false → s.block.busy = false → s.pending = [] →
          ∃ n₀ : Nat, ∀ n : Nat, n₀ ≤ n →
            (s.block.errorFree = true → computeDigest n 0 (some m) s = .ok (c ((pad m).length / 64))) ∧
            computeDigest n 1 (some m) s = .ok (c ((pad m).length / 64)))

/-- R108 and R109: the hex string has 40 lowercase digits and, read as a number, is the 160-bit digest value. -/
def Obligations.DigestHexIsValue : Prop :=
  ∀ h : Vector Word 5,
    (digestHex h).length = 40 ∧
    (∀ c ∈ digestHex h,
      c ∈ ['0', '1', '2', '3', '4', '5', '6', '7', '8', '9', 'a', 'b', 'c', 'd', 'e', 'f']) ∧
    takeHex 40 0 (digestHex h) = some ((digestValue h).toNat, [])

/-- R111 and R138: the writes of SETH, idle, restore a saved chaining value and change nothing else. -/
def Obligations.SavedDigestIsRestored : Prop :=
  ∀ (x : Vector Word 5) (s : State), s.block.busy = false →
    execAll [.h0W x[0], .h1W x[1], .h2W x[2], .h3W x[3], .h4W x[4]] s = .next { s with block := { s.block with h := x } }

/-- R253: a read after a write of the same H or MSG register, idle, returns the written value. -/
def Obligations.ReadAfterWriteReturnsValue : Prop :=
  ∀ (v : Word) (s : State), s.block.busy = false →
    (∀ i : Fin 5, ∃ t : State,
      execAll [decodeWrite (hOffset i) v, decodeRead (hOffset i)] s = .next t ∧ t.rdata = v) ∧
    (∀ j : Fin 16, ∃ t : State,
      execAll [decodeWrite (msgOffset j) v, decodeRead (msgOffset j)] s = .next t ∧ t.rdata = v)

/-- R257 and R134: after the fold of a COMPRESS and any accesses that are no MSG writes, the next COMPRESS raises ERR_INCOMPLETE and
changes nothing else. -/
def Obligations.BlockMustBeReloaded : Prop :=
  ∀ (s t u : State) (is : List Instr), s.inReset = false → s.engineTurn = true → s.block.rnd = 80#7 → step s = .next t →
    (∀ i ∈ is, ∀ (j : Fin 16) (v : Word), i ≠ decodeWrite (msgOffset j) v) → execAll is t = .next u →
    exec .compress u = .next { u with block := { u.block with errIncomplete := true } }
end

