-- ==== Sys2Proof/Laws/Decode.lean ====
section
/-! SUPPORT. What the decoder's functions can answer, said once. -/

namespace Sys2Proof.Machine

/-- The read row an offset selects is encoded as the read of that offset. -/
theorem encode_decodeRead (o : Offset) : encode (decodeRead o) = .bus (.busRead o) := by
  have ofToNat (k : Nat) (h : o.toNat = k) : o = BitVec.ofNat 8 k := by rw [← h]; simp
  unfold decodeRead
  split <;> first | rfl | (rename_i h; rw [ofToNat _ h]; rfl)

/-- The write row an offset selects is encoded as the write of that offset. -/
theorem encode_decodeWrite (o : Offset) (v : Word) : encode (decodeWrite o v) = .bus (.busWrite o v) := by
  have ofToNat (k : Nat) (h : o.toNat = k) : o = BitVec.ofNat 8 k := by rw [← h]; simp
  unfold decodeWrite
  split <;> first | rfl | (rename_i h; rw [ofToNat _ h]; rfl)

/-- A read row reads. -/
theorem isRead_decodeRead (o : Offset) : isRead (decodeRead o) = true := by
  simp [isRead, encode_decodeRead, Access.busRead]

/-- A write row does not read. -/
theorem isRead_decodeWrite (o : Offset) (v : Word) : isRead (decodeWrite o v) = false := by
  simp [isRead, encode_decodeWrite, Access.busWrite]

/-- A command word decodes to one of the three commands. -/
theorem decodeCommand_ok {v : Word} {i : Instr} (h : decodeCommand v = .ok i) :
    i = .nop ∨ i = .init ∨ i = .compress := by
  unfold decodeCommand at h
  repeat' split at h
  all_goals cases h
  all_goals simp

/-- The instruction of an access is that of its read row, of its write row, or, for a CMD write, of its command word. -/
theorem accessInstr_ok {a : Access} {i : Instr} (h : accessInstr a = .ok i) :
    (∃ o, a = .busRead o ∧ i = decodeRead o) ∨
      (∃ o v, a = .busWrite o v ∧ i = decodeWrite o v) ∨
      (∃ v, a = .busWrite 0#8 v ∧ decodeCommand v = .ok i) := by
  obtain ⟨o, bits, dir⟩ := a
  have row : bits = 32 ∧ isAligned o = true := by
    unfold accessInstr decodeAccess at h
    by_cases h1 : bits = 32
    · by_cases h2 : isAligned o = true
      · exact ⟨h1, h2⟩
      · simp [h1, h2] at h
    · simp [h1] at h
  obtain ⟨rfl, ha⟩ := row
  cases dir with
  | read =>
    refine .inl ⟨o, rfl, ?_⟩
    simp only [accessInstr, decodeAccess, ha, ne_eq, not_true_eq_false, if_false, Bool.true_eq_false] at h
    split at h
    · rename_i v hv
      injection hv with hv
      have := isRead_decodeRead o
      rw [hv] at this
      cases this
    · injection h with h
      exact h.symm
  | write v =>
    simp only [accessInstr, decodeAccess, ha, ne_eq, not_true_eq_false, if_false, Bool.true_eq_false] at h
    split at h
    · rename_i w hw
      injection hw with hw
      have e := encode_decodeWrite o v
      rw [hw] at e
      simp only [encode, Access.busWrite, Encoded.bus.injEq, Access.mk.injEq, Direction.write.injEq, true_and] at e
      split at h
      · rename_i c hc
        injection h with h
        exact .inr (.inr ⟨w, by rw [← e.1, ← e.2]; rfl, by rw [hc, h]⟩)
      · injection h with h
        exact .inr (.inl ⟨o, v, rfl, by rw [hw, h]⟩)
    · injection h with h
      exact .inr (.inl ⟨o, v, rfl, h.symm⟩)

end Sys2Proof.Machine
end

