-- ==== Sys2Proof/Laws/State.lean ====
section
/-! SUPPORT. One lemma per field per update of the block and of the state, so that no later proof unfolds a record update. -/

namespace Sys2Proof.Machine

/-! Raising an error changes only its bit (R226). -/

@[simp] theorem Block.raise_h (b : Block) (e : IfaceError) : (b.raise e).h = b.h := by cases e <;> rfl
@[simp] theorem Block.raise_msg (b : Block) (e : IfaceError) : (b.raise e).msg = b.msg := by cases e <;> rfl
@[simp] theorem Block.raise_mvalid (b : Block) (e : IfaceError) : (b.raise e).mvalid = b.mvalid := by cases e <;> rfl
@[simp] theorem Block.raise_busy (b : Block) (e : IfaceError) : (b.raise e).busy = b.busy := by cases e <;> rfl
@[simp] theorem Block.raise_errCmd (b : Block) (e : IfaceError) : (b.raise e).errCmd = (b.errCmd || e == .cmd) := by cases e <;> simp [Block.raise]
@[simp] theorem Block.raise_errBusy (b : Block) (e : IfaceError) : (b.raise e).errBusy = (b.errBusy || e == .busy) := by cases e <;> simp [Block.raise]
@[simp] theorem Block.raise_errIncomplete (b : Block) (e : IfaceError) : (b.raise e).errIncomplete = (b.errIncomplete || e == .incomplete) := by cases e <;> simp [Block.raise]
@[simp] theorem Block.raise_work (b : Block) (e : IfaceError) : (b.raise e).work = b.work := by cases e <;> rfl
@[simp] theorem Block.raise_rnd (b : Block) (e : IfaceError) : (b.raise e).rnd = b.rnd := by cases e <;> rfl

/-! A STATUS write (R142). -/

@[simp] theorem Block.clearErrors_h (b : Block) (v : Word) : (b.clearErrors v).h = b.h := rfl
@[simp] theorem Block.clearErrors_msg (b : Block) (v : Word) : (b.clearErrors v).msg = b.msg := rfl
@[simp] theorem Block.clearErrors_mvalid (b : Block) (v : Word) : (b.clearErrors v).mvalid = b.mvalid := rfl
@[simp] theorem Block.clearErrors_busy (b : Block) (v : Word) : (b.clearErrors v).busy = b.busy := rfl
@[simp] theorem Block.clearErrors_errCmd (b : Block) (v : Word) : (b.clearErrors v).errCmd = (b.errCmd && !v.getLsbD 8) := by
  simp only [Block.clearErrors, clearsErrCmd]; cases b.errCmd <;> simp
@[simp] theorem Block.clearErrors_errBusy (b : Block) (v : Word) : (b.clearErrors v).errBusy = (b.errBusy && !v.getLsbD 9) := by
  simp only [Block.clearErrors, clearsErrBusy]; cases b.errBusy <;> simp
@[simp] theorem Block.clearErrors_errIncomplete (b : Block) (v : Word) : (b.clearErrors v).errIncomplete = (b.errIncomplete && !v.getLsbD 10) := by
  simp only [Block.clearErrors, clearsErrIncomplete]; cases b.errIncomplete <;> simp
@[simp] theorem Block.clearErrors_work (b : Block) (v : Word) : (b.clearErrors v).work = b.work := rfl
@[simp] theorem Block.clearErrors_rnd (b : Block) (v : Word) : (b.clearErrors v).rnd = b.rnd := rfl

/-! Register writes (R138, R140), INIT (R133), the start of COMPRESS (R135), a round (R196), the fold (R198). -/

@[simp] theorem Block.setDigest_h (b : Block) (i : Fin 5) (v : Word) : (b.setDigest i v).h = b.h.set i v := rfl
@[simp] theorem Block.setDigest_msg (b : Block) (i : Fin 5) (v : Word) : (b.setDigest i v).msg = b.msg := rfl
@[simp] theorem Block.setDigest_mvalid (b : Block) (i : Fin 5) (v : Word) : (b.setDigest i v).mvalid = b.mvalid := rfl
@[simp] theorem Block.setDigest_busy (b : Block) (i : Fin 5) (v : Word) : (b.setDigest i v).busy = b.busy := rfl
@[simp] theorem Block.setDigest_errCmd (b : Block) (i : Fin 5) (v : Word) : (b.setDigest i v).errCmd = b.errCmd := rfl
@[simp] theorem Block.setDigest_errBusy (b : Block) (i : Fin 5) (v : Word) : (b.setDigest i v).errBusy = b.errBusy := rfl
@[simp] theorem Block.setDigest_errIncomplete (b : Block) (i : Fin 5) (v : Word) : (b.setDigest i v).errIncomplete = b.errIncomplete := rfl
@[simp] theorem Block.setDigest_work (b : Block) (i : Fin 5) (v : Word) : (b.setDigest i v).work = b.work := rfl
@[simp] theorem Block.setDigest_rnd (b : Block) (i : Fin 5) (v : Word) : (b.setDigest i v).rnd = b.rnd := rfl

@[simp] theorem Block.setWindow_h (b : Block) (j : Fin 16) (v : Word) : (b.setWindow j v).h = b.h := rfl
@[simp] theorem Block.setWindow_msg (b : Block) (j : Fin 16) (v : Word) : (b.setWindow j v).msg = b.msg.set j v := rfl
@[simp] theorem Block.setWindow_mvalid (b : Block) (j : Fin 16) (v : Word) : (b.setWindow j v).mvalid = markValid b.mvalid j := rfl
@[simp] theorem Block.setWindow_busy (b : Block) (j : Fin 16) (v : Word) : (b.setWindow j v).busy = b.busy := rfl
@[simp] theorem Block.setWindow_errCmd (b : Block) (j : Fin 16) (v : Word) : (b.setWindow j v).errCmd = b.errCmd := rfl
@[simp] theorem Block.setWindow_errBusy (b : Block) (j : Fin 16) (v : Word) : (b.setWindow j v).errBusy = b.errBusy := rfl
@[simp] theorem Block.setWindow_errIncomplete (b : Block) (j : Fin 16) (v : Word) : (b.setWindow j v).errIncomplete = b.errIncomplete := rfl
@[simp] theorem Block.setWindow_work (b : Block) (j : Fin 16) (v : Word) : (b.setWindow j v).work = b.work := rfl
@[simp] theorem Block.setWindow_rnd (b : Block) (j : Fin 16) (v : Word) : (b.setWindow j v).rnd = b.rnd := rfl

@[simp] theorem Block.init_h (b : Block) : (b.init).h = iv := rfl
@[simp] theorem Block.init_msg (b : Block) : (b.init).msg = b.msg := rfl
@[simp] theorem Block.init_mvalid (b : Block) : (b.init).mvalid = b.mvalid := rfl
@[simp] theorem Block.init_busy (b : Block) : (b.init).busy = b.busy := rfl
@[simp] theorem Block.init_errCmd (b : Block) : (b.init).errCmd = b.errCmd := rfl
@[simp] theorem Block.init_errBusy (b : Block) : (b.init).errBusy = b.errBusy := rfl
@[simp] theorem Block.init_errIncomplete (b : Block) : (b.init).errIncomplete = b.errIncomplete := rfl
@[simp] theorem Block.init_work (b : Block) : (b.init).work = b.work := rfl
@[simp] theorem Block.init_rnd (b : Block) : (b.init).rnd = b.rnd := rfl

@[simp] theorem Block.start_h (b : Block) : (b.start).h = b.h := rfl
@[simp] theorem Block.start_msg (b : Block) : (b.start).msg = b.msg := rfl
@[simp] theorem Block.start_mvalid (b : Block) : (b.start).mvalid = b.mvalid := rfl
@[simp] theorem Block.start_busy (b : Block) : (b.start).busy = true := rfl
@[simp] theorem Block.start_errCmd (b : Block) : (b.start).errCmd = b.errCmd := rfl
@[simp] theorem Block.start_errBusy (b : Block) : (b.start).errBusy = b.errBusy := rfl
@[simp] theorem Block.start_errIncomplete (b : Block) : (b.start).errIncomplete = b.errIncomplete := rfl
@[simp] theorem Block.start_work (b : Block) : (b.start).work = Work.seed b.h := rfl
@[simp] theorem Block.start_rnd (b : Block) : (b.start).rnd = 0#7 := rfl

@[simp] theorem Block.engineRound_h (b : Block) : (b.engineRound).h = b.h := rfl
@[simp] theorem Block.engineRound_msg (b : Block) : (b.engineRound).msg = windowForRound b.msg b.rnd.toNat := rfl
@[simp] theorem Block.engineRound_mvalid (b : Block) : (b.engineRound).mvalid = b.mvalid := rfl
@[simp] theorem Block.engineRound_busy (b : Block) : (b.engineRound).busy = b.busy := rfl
@[simp] theorem Block.engineRound_errCmd (b : Block) : (b.engineRound).errCmd = b.errCmd := rfl
@[simp] theorem Block.engineRound_errBusy (b : Block) : (b.engineRound).errBusy = b.errBusy := rfl
@[simp] theorem Block.engineRound_errIncomplete (b : Block) : (b.engineRound).errIncomplete = b.errIncomplete := rfl
@[simp] theorem Block.engineRound_work (b : Block) : (b.engineRound).work = b.work.round b.rnd.toNat ((windowForRound b.msg b.rnd.toNat)[b.rnd.toNat % 16]) := rfl
@[simp] theorem Block.engineRound_rnd (b : Block) : (b.engineRound).rnd = b.rnd + 1#7 := rfl

@[simp] theorem Block.fold_h (b : Block) : (b.fold).h = foldSum b.h b.work := rfl
@[simp] theorem Block.fold_msg (b : Block) : (b.fold).msg = b.msg := rfl
@[simp] theorem Block.fold_mvalid (b : Block) : (b.fold).mvalid = 0#16 := rfl
@[simp] theorem Block.fold_busy (b : Block) : (b.fold).busy = false := rfl
@[simp] theorem Block.fold_errCmd (b : Block) : (b.fold).errCmd = b.errCmd := rfl
@[simp] theorem Block.fold_errBusy (b : Block) : (b.fold).errBusy = b.errBusy := rfl
@[simp] theorem Block.fold_errIncomplete (b : Block) : (b.fold).errIncomplete = b.errIncomplete := rfl
@[simp] theorem Block.fold_work (b : Block) : (b.fold).work = b.work := rfl
@[simp] theorem Block.fold_rnd (b : Block) : (b.fold).rnd = b.rnd := rfl

/-! The state around the block: the turn, the host's read, the end of a poll, the reset load. -/

@[simp] theorem State.useTurn_block (s : State) : s.useTurn.block = s.block := by
  unfold State.useTurn; split <;> rfl
@[simp] theorem State.useTurn_inReset (s : State) : s.useTurn.inReset = s.inReset := by
  unfold State.useTurn; split <;> rfl
@[simp] theorem State.useTurn_rdata (s : State) : s.useTurn.rdata = s.rdata := by
  unfold State.useTurn; split <;> rfl
@[simp] theorem State.useTurn_draws (s : State) : s.useTurn.draws = s.draws := by
  unfold State.useTurn; split <;> rfl
@[simp] theorem State.useTurn_schedule (s : State) :
    s.useTurn.schedule = if s.block.busy then s.schedule.tail else s.schedule := by
  unfold State.useTurn; split <;> rfl
@[simp] theorem State.useTurn_pending (s : State) : s.useTurn.pending = s.pending := by
  unfold State.useTurn; split <;> rfl
@[simp] theorem State.useTurn_reads (s : State) : s.useTurn.reads = s.reads := by
  unfold State.useTurn; split <;> rfl

@[simp] theorem State.keepRead_block (s : State) (d : Direction) : (s.keepRead d).block = s.block := by cases d <;> rfl
@[simp] theorem State.keepRead_inReset (s : State) (d : Direction) : (s.keepRead d).inReset = s.inReset := by cases d <;> rfl
@[simp] theorem State.keepRead_rdata (s : State) (d : Direction) : (s.keepRead d).rdata = s.rdata := by cases d <;> rfl
@[simp] theorem State.keepRead_draws (s : State) (d : Direction) : (s.keepRead d).draws = s.draws := by cases d <;> rfl
@[simp] theorem State.keepRead_schedule (s : State) (d : Direction) : (s.keepRead d).schedule = s.schedule := by cases d <;> rfl
@[simp] theorem State.keepRead_pending (s : State) (d : Direction) : (s.keepRead d).pending = s.pending := by cases d <;> rfl
@[simp] theorem State.keepRead_reads_read (s : State) : (s.keepRead .read).reads = s.reads ++ [s.rdata] := rfl
@[simp] theorem State.keepRead_reads_write (s : State) (v : Word) : (s.keepRead (.write v)).reads = s.reads := rfl

@[simp] theorem State.endPoll_block (s : State) (mask val : Word) (rest : List HostItem) :
    (s.endPoll mask val rest).block = s.block := by
  unfold State.endPoll; split <;> rfl
@[simp] theorem State.endPoll_inReset (s : State) (mask val : Word) (rest : List HostItem) :
    (s.endPoll mask val rest).inReset = s.inReset := by
  unfold State.endPoll; split <;> rfl
@[simp] theorem State.endPoll_rdata (s : State) (mask val : Word) (rest : List HostItem) :
    (s.endPoll mask val rest).rdata = s.rdata := by
  unfold State.endPoll; split <;> rfl
@[simp] theorem State.endPoll_draws (s : State) (mask val : Word) (rest : List HostItem) :
    (s.endPoll mask val rest).draws = s.draws := by
  unfold State.endPoll; split <;> rfl
@[simp] theorem State.endPoll_schedule (s : State) (mask val : Word) (rest : List HostItem) :
    (s.endPoll mask val rest).schedule = s.schedule := by
  unfold State.endPoll; split <;> rfl
@[simp] theorem State.endPoll_pending (s : State) (mask val : Word) (rest : List HostItem) :
    (s.endPoll mask val rest).pending = if s.rdata &&& mask = val then rest else s.pending := by
  unfold State.endPoll; split <;> rfl
@[simp] theorem State.endPoll_reads (s : State) (mask val : Word) (rest : List HostItem) :
    (s.endPoll mask val rest).reads = s.reads := by
  unfold State.endPoll; split <;> rfl

@[simp] theorem State.loadReset_block (s : State) : s.loadReset.block = Block.reset := rfl
@[simp] theorem State.loadReset_inReset (s : State) : s.loadReset.inReset = s.inReset := rfl
@[simp] theorem State.loadReset_rdata (s : State) : s.loadReset.rdata = s.rdata := rfl
@[simp] theorem State.loadReset_draws (s : State) : s.loadReset.draws = s.draws := rfl
@[simp] theorem State.loadReset_schedule (s : State) : s.loadReset.schedule = s.schedule := rfl
@[simp] theorem State.loadReset_pending (s : State) : s.loadReset.pending = s.pending := rfl
@[simp] theorem State.loadReset_reads (s : State) : s.loadReset.reads = s.reads := rfl

end Sys2Proof.Machine
end

