-- ==== Sys2Proof/Laws/Ops.lean ====
section
/-! SUPPORT. One lemma per shared operation that says everything it can do. -/

namespace Sys2Proof.Machine

variable {s t : State}

/-- A block write answers next, and writes the block alone. -/
theorem onBlock_next_iff (f : Block → Block) : onBlock f s = .next t ↔ t = { s with block := f s.block } := by
  simp [onBlock, eq_comm]

/-- A read answers next, and writes the port's answer alone. -/
theorem respond_next_iff (v : Word) : respond v s = .next t ↔ t = { s with rdata := v } := by
  simp [respond, eq_comm]

/-- A free read answers next with the next draw. -/
theorem respondFree_next_iff :
    respondFree s = .next t ↔ t = { s with rdata := Config.freeDraw s.draws, draws := s.draws + 1 } := by
  simp [respondFree, eq_comm]

/-- While busy a guarded write only raises ERR_BUSY (R223). -/
theorem Block.whenIdle_busy {b : Block} (f : Block → Block) (hb : b.busy = true) : b.whenIdle f = b.raise .busy := by
  simp [Block.whenIdle, hb]

/-- While idle a guarded write has its effect. -/
theorem Block.whenIdle_idle {b : Block} (f : Block → Block) (hb : b.busy = false) : b.whenIdle f = f b := by
  simp [Block.whenIdle, hb]

/-- Everything a window read can do (R139). -/
theorem readWindow_cases (j : Fin 16) :
    (s.block.busy = false ∧ readWindow j s = .next { s with rdata := s.block.msg[j] }) ∨
      (s.block.busy = true ∧
        readWindow j s = .next { s with rdata := Config.freeDraw s.draws, draws := s.draws + 1 }) := by
  cases hb : s.block.busy
  · exact .inl ⟨rfl, by simp [readWindow, respond, hb]⟩
  · exact .inr ⟨rfl, by simp [readWindow, respondFree, hb]⟩

/-- Everything the command write of COMPRESS can do (R134). -/
theorem Block.compressCommand_cases (b : Block) :
    (b.mvalid = mvalidFull ∧ b.compressCommand = b.start) ∨
      (b.mvalid ≠ mvalidFull ∧ b.compressCommand = b.raise .incomplete) := by
  by_cases h : b.mvalid = mvalidFull
  · exact .inl ⟨h, by simp [Block.compressCommand, h]⟩
  · exact .inr ⟨h, by simp [Block.compressCommand, h]⟩

/-- Everything a command word can do when idle (R81). -/
theorem Block.command_cases (b : Block) (v : Word) :
    (decodeCommand v = .ok .nop ∧ b.command v = b) ∨
      (decodeCommand v = .ok .init ∧ b.command v = b.init) ∨
      (decodeCommand v = .ok .compress ∧ b.command v = b.compressCommand) ∨
      (decodeCommand v = .error (.illegalCommand v) ∧ b.command v = b.raise .cmd) := by
  unfold decodeCommand Block.command
  repeat' split
  all_goals simp_all

/-- Everything an engine step can do. -/
theorem engineStep_cases :
    (s.block.rnd.toNat ≤ 79 ∧ engineStep s = .next { s with block := s.block.engineRound }) ∨
      (s.block.rnd = 80#7 ∧ engineStep s = .next { s with block := s.block.fold }) ∨
      (80 < s.block.rnd.toNat ∧ engineStep s = .fault .noEngineStep) := by
  unfold engineStep
  by_cases h : s.block.rnd.toNat ≤ 79
  · exact .inl ⟨h, by simp [h]⟩
  · by_cases h' : s.block.rnd.toNat = 80
    · exact .inr (.inl ⟨BitVec.eq_of_toNat_eq (by simpa using h'), by simp [h']⟩)
    · exact .inr (.inr ⟨by omega, by simp [h, h']⟩)

/-- Continuing after an outcome answers next exactly when the outcome did. -/
theorem andThen_next_iff {o : Host.Outcome State Fault Refusal} {f : State → State} :
    andThen o f = .next t ↔ ∃ u, o = .next u ∧ t = f u := by
  cases o <;> simp [andThen, eq_comm]

end Sys2Proof.Machine
end

