-- ==== Sys2Proof/Laws/Exec.lean ====
section
/-! SUPPORT. What an instruction can do, said once: the inversion lemma of exec, and the words its access comes from. -/

namespace Sys2Proof.Machine

/-- One step of a run. -/
theorem run_succ (M : Host.Core) (n : Nat) (s : M.State) :
    M.run (n + 1) s =
      match M.step s with
      | .next t => M.run n t
      | .fault r => .fault r
      | .refused r => .refused r := by rfl

/-- The steps of the claims are the host's run of this machine. -/
theorem steps_eq_run (n : Nat) (s : State) : steps n s = Host.Core.run Sys2Proof.core n s := by
  induction n generalizing s with
  | zero => rfl
  | succ n ih =>
    refine Eq.trans ?_ (run_succ Sys2Proof.core n s).symm
    show steps (n + 1) s = _
    rw [steps]
    cases h : step s with
    | next t =>
      have h' : Sys2Proof.core.step s = .next t := h
      rw [h']
      exact ih t
    | fault r =>
      have h' : Sys2Proof.core.step s = .fault r := h
      rw [h']; rfl
    | refused r =>
      have h' : Sys2Proof.core.step s = .refused r := h
      rw [h']; rfl

/-- After a step that answers next, the remaining steps run from its state. -/
theorem steps_succ {s t : State} (n : Nat) (h : step s = .next t) : steps (n + 1) s = steps n t := by
  simp [steps, h]

/-- The block writes that are guarded by the idle test, each with the row's effect when idle (R81, R132 to R140). -/
inductive IdleWrite : Instr → (Block → Block) → Prop
  | nop : IdleWrite .nop id
  | init : IdleWrite .init Block.init
  | compress : IdleWrite .compress Block.compressCommand
  | command (v : Word) : IdleWrite (.cmdW v) (fun b => b.command v)
  | digest (i : Fin 5) (v : Word) : IdleWrite (decodeWrite (hOffset i) v) (fun b => b.setDigest i v)
  | window (j : Fin 16) (v : Word) : IdleWrite (decodeWrite (msgOffset j) v) (fun b => b.setWindow j v)

/-- Everything an instruction can do: a read answers with a word (a free draw only while busy); a guarded write drops with ERR_BUSY while
busy or has its effect; a STATUS write clears error bits; a reserved write changes nothing. -/
theorem exec_cases (i : Instr) (s : State) :
    (isRead i = true ∧ ∃ v d, exec i s = .next { s with rdata := v, draws := d } ∧ (d = s.draws ∨ s.block.busy = true)) ∨
      (isRead i = false ∧ ∃ f, IdleWrite i f ∧ exec i s = .next { s with block := s.block.whenIdle f }) ∨
      (∃ v, i = .statusW v ∧ exec i s = .next { s with block := s.block.clearErrors v }) ∨
      (∃ off v, i = .rsvdW off v ∧ exec i s = .next s) := by
  have digest (i : Fin 5) : ∃ v d, readDigest i s = .next { s with rdata := v, draws := d } ∧
      (d = s.draws ∨ s.block.busy = true) := ⟨_, _, rfl, .inl rfl⟩
  have window (j : Fin 16) : ∃ v d, readWindow j s = .next { s with rdata := v, draws := d } ∧
      (d = s.draws ∨ s.block.busy = true) := by
    rcases readWindow_cases (s := s) j with ⟨_, h⟩ | ⟨hb, h⟩
    · exact ⟨_, _, h, .inl rfl⟩
    · exact ⟨_, _, h, .inr hb⟩
  cases i with
  | nop => exact .inr (.inl ⟨rfl, _, .nop, rfl⟩)
  | init => exact .inr (.inl ⟨rfl, _, .init, rfl⟩)
  | compress => exact .inr (.inl ⟨rfl, _, .compress, rfl⟩)
  | cmdW v => exact .inr (.inl ⟨rfl, _, .command v, rfl⟩)
  | cmdR => exact .inl ⟨rfl, _, _, rfl, .inl rfl⟩
  | statusR => exact .inl ⟨rfl, _, _, rfl, .inl rfl⟩
  | statusW v => exact .inr (.inr (.inl ⟨v, rfl, rfl⟩))
  | rsvdR off => exact .inl ⟨rfl, _, _, rfl, .inl rfl⟩
  | rsvdW off v => exact .inr (.inr (.inr ⟨off, v, rfl, rfl⟩))
  | h0R => exact .inl ⟨rfl, digest 0⟩
  | h0W v => exact .inr (.inl ⟨rfl, _, .digest 0 v, rfl⟩)
  | h1R => exact .inl ⟨rfl, digest 1⟩
  | h1W v => exact .inr (.inl ⟨rfl, _, .digest 1 v, rfl⟩)
  | h2R => exact .inl ⟨rfl, digest 2⟩
  | h2W v => exact .inr (.inl ⟨rfl, _, .digest 2 v, rfl⟩)
  | h3R => exact .inl ⟨rfl, digest 3⟩
  | h3W v => exact .inr (.inl ⟨rfl, _, .digest 3 v, rfl⟩)
  | h4R => exact .inl ⟨rfl, digest 4⟩
  | h4W v => exact .inr (.inl ⟨rfl, _, .digest 4 v, rfl⟩)
  | msg0R => exact .inl ⟨rfl, window 0⟩
  | msg0W v => exact .inr (.inl ⟨rfl, _, .window 0 v, rfl⟩)
  | msg1R => exact .inl ⟨rfl, window 1⟩
  | msg1W v => exact .inr (.inl ⟨rfl, _, .window 1 v, rfl⟩)
  | msg2R => exact .inl ⟨rfl, window 2⟩
  | msg2W v => exact .inr (.inl ⟨rfl, _, .window 2 v, rfl⟩)
  | msg3R => exact .inl ⟨rfl, window 3⟩
  | msg3W v => exact .inr (.inl ⟨rfl, _, .window 3 v, rfl⟩)
  | msg4R => exact .inl ⟨rfl, window 4⟩
  | msg4W v => exact .inr (.inl ⟨rfl, _, .window 4 v, rfl⟩)
  | msg5R => exact .inl ⟨rfl, window 5⟩
  | msg5W v => exact .inr (.inl ⟨rfl, _, .window 5 v, rfl⟩)
  | msg6R => exact .inl ⟨rfl, window 6⟩
  | msg6W v => exact .inr (.inl ⟨rfl, _, .window 6 v, rfl⟩)
  | msg7R => exact .inl ⟨rfl, window 7⟩
  | msg7W v => exact .inr (.inl ⟨rfl, _, .window 7 v, rfl⟩)
  | msg8R => exact .inl ⟨rfl, window 8⟩
  | msg8W v => exact .inr (.inl ⟨rfl, _, .window 8 v, rfl⟩)
  | msg9R => exact .inl ⟨rfl, window 9⟩
  | msg9W v => exact .inr (.inl ⟨rfl, _, .window 9 v, rfl⟩)
  | msg10R => exact .inl ⟨rfl, window 10⟩
  | msg10W v => exact .inr (.inl ⟨rfl, _, .window 10 v, rfl⟩)
  | msg11R => exact .inl ⟨rfl, window 11⟩
  | msg11W v => exact .inr (.inl ⟨rfl, _, .window 11 v, rfl⟩)
  | msg12R => exact .inl ⟨rfl, window 12⟩
  | msg12W v => exact .inr (.inl ⟨rfl, _, .window 12 v, rfl⟩)
  | msg13R => exact .inl ⟨rfl, window 13⟩
  | msg13W v => exact .inr (.inl ⟨rfl, _, .window 13 v, rfl⟩)
  | msg14R => exact .inl ⟨rfl, window 14⟩
  | msg14W v => exact .inr (.inl ⟨rfl, _, .window 14 v, rfl⟩)
  | msg15R => exact .inl ⟨rfl, window 15⟩
  | msg15W v => exact .inr (.inl ⟨rfl, _, .window 15 v, rfl⟩)

end Sys2Proof.Machine
end

