-- ==== Sys2Proof/Laws/PerInstr.lean ====
section
/-! SUPPORT. Facts about every instruction as syntax, one lemma per constructor. EncodeAdmitted: a well-formed instruction is delivered
by a 32-bit access at a multiple of 4, the only access the port admits (spec/20_memory.md R54). -/

namespace Sys2Proof.Laws.EncodeAdmitted

open Sys2Proof.Machine

/-- The instruction's access is one the port admits. -/
def Statement (i : Instr) : Prop :=
  i.wf = true → (encode i).toAccess.bits = 32 ∧ isAligned (encode i).toAccess.offset = true

/-- A reserved offset is a multiple of 4. -/
theorem aligned_of_reserved {o : Offset} (h : isReserved o = true) : isAligned o = true := by
  simp only [isReserved, Bool.and_eq_true] at h
  exact h.1

theorem nop : Statement .nop := fun _ => ⟨rfl, by decide⟩
theorem init : Statement .init := fun _ => ⟨rfl, by decide⟩
theorem compress : Statement .compress := fun _ => ⟨rfl, by decide⟩
theorem cmdW (v : Word) : Statement (.cmdW v) := fun _ => ⟨rfl, by simp [encode, Encoded.toAccess, Access.busWrite, isAligned]⟩
theorem cmdR : Statement .cmdR := fun _ => ⟨rfl, by decide⟩
theorem statusR : Statement .statusR := fun _ => ⟨rfl, by decide⟩
theorem statusW (v : Word) : Statement (.statusW v) := fun _ => ⟨rfl, by simp [encode, Encoded.toAccess, Access.busWrite, isAligned]⟩
theorem h0R : Statement .h0R := fun _ => ⟨rfl, by decide⟩
theorem h0W (v : Word) : Statement (.h0W v) := fun _ => ⟨rfl, by simp [encode, Encoded.toAccess, Access.busWrite, isAligned]⟩
theorem h1R : Statement .h1R := fun _ => ⟨rfl, by decide⟩
theorem h1W (v : Word) : Statement (.h1W v) := fun _ => ⟨rfl, by simp [encode, Encoded.toAccess, Access.busWrite, isAligned]⟩
theorem h2R : Statement .h2R := fun _ => ⟨rfl, by decide⟩
theorem h2W (v : Word) : Statement (.h2W v) := fun _ => ⟨rfl, by simp [encode, Encoded.toAccess, Access.busWrite, isAligned]⟩
theorem h3R : Statement .h3R := fun _ => ⟨rfl, by decide⟩
theorem h3W (v : Word) : Statement (.h3W v) := fun _ => ⟨rfl, by simp [encode, Encoded.toAccess, Access.busWrite, isAligned]⟩
theorem h4R : Statement .h4R := fun _ => ⟨rfl, by decide⟩
theorem h4W (v : Word) : Statement (.h4W v) := fun _ => ⟨rfl, by simp [encode, Encoded.toAccess, Access.busWrite, isAligned]⟩
theorem msg0R : Statement .msg0R := fun _ => ⟨rfl, by decide⟩
theorem msg0W (v : Word) : Statement (.msg0W v) := fun _ => ⟨rfl, by simp [encode, Encoded.toAccess, Access.busWrite, isAligned]⟩
theorem msg1R : Statement .msg1R := fun _ => ⟨rfl, by decide⟩
theorem msg1W (v : Word) : Statement (.msg1W v) := fun _ => ⟨rfl, by simp [encode, Encoded.toAccess, Access.busWrite, isAligned]⟩
theorem msg2R : Statement .msg2R := fun _ => ⟨rfl, by decide⟩
theorem msg2W (v : Word) : Statement (.msg2W v) := fun _ => ⟨rfl, by simp [encode, Encoded.toAccess, Access.busWrite, isAligned]⟩
theorem msg3R : Statement .msg3R := fun _ => ⟨rfl, by decide⟩
theorem msg3W (v : Word) : Statement (.msg3W v) := fun _ => ⟨rfl, by simp [encode, Encoded.toAccess, Access.busWrite, isAligned]⟩
theorem msg4R : Statement .msg4R := fun _ => ⟨rfl, by decide⟩
theorem msg4W (v : Word) : Statement (.msg4W v) := fun _ => ⟨rfl, by simp [encode, Encoded.toAccess, Access.busWrite, isAligned]⟩
theorem msg5R : Statement .msg5R := fun _ => ⟨rfl, by decide⟩
theorem msg5W (v : Word) : Statement (.msg5W v) := fun _ => ⟨rfl, by simp [encode, Encoded.toAccess, Access.busWrite, isAligned]⟩
theorem msg6R : Statement .msg6R := fun _ => ⟨rfl, by decide⟩
theorem msg6W (v : Word) : Statement (.msg6W v) := fun _ => ⟨rfl, by simp [encode, Encoded.toAccess, Access.busWrite, isAligned]⟩
theorem msg7R : Statement .msg7R := fun _ => ⟨rfl, by decide⟩
theorem msg7W (v : Word) : Statement (.msg7W v) := fun _ => ⟨rfl, by simp [encode, Encoded.toAccess, Access.busWrite, isAligned]⟩
theorem msg8R : Statement .msg8R := fun _ => ⟨rfl, by decide⟩
theorem msg8W (v : Word) : Statement (.msg8W v) := fun _ => ⟨rfl, by simp [encode, Encoded.toAccess, Access.busWrite, isAligned]⟩
theorem msg9R : Statement .msg9R := fun _ => ⟨rfl, by decide⟩
theorem msg9W (v : Word) : Statement (.msg9W v) := fun _ => ⟨rfl, by simp [encode, Encoded.toAccess, Access.busWrite, isAligned]⟩
theorem msg10R : Statement .msg10R := fun _ => ⟨rfl, by decide⟩
theorem msg10W (v : Word) : Statement (.msg10W v) := fun _ => ⟨rfl, by simp [encode, Encoded.toAccess, Access.busWrite, isAligned]⟩
theorem msg11R : Statement .msg11R := fun _ => ⟨rfl, by decide⟩
theorem msg11W (v : Word) : Statement (.msg11W v) := fun _ => ⟨rfl, by simp [encode, Encoded.toAccess, Access.busWrite, isAligned]⟩
theorem msg12R : Statement .msg12R := fun _ => ⟨rfl, by decide⟩
theorem msg12W (v : Word) : Statement (.msg12W v) := fun _ => ⟨rfl, by simp [encode, Encoded.toAccess, Access.busWrite, isAligned]⟩
theorem msg13R : Statement .msg13R := fun _ => ⟨rfl, by decide⟩
theorem msg13W (v : Word) : Statement (.msg13W v) := fun _ => ⟨rfl, by simp [encode, Encoded.toAccess, Access.busWrite, isAligned]⟩
theorem msg14R : Statement .msg14R := fun _ => ⟨rfl, by decide⟩
theorem msg14W (v : Word) : Statement (.msg14W v) := fun _ => ⟨rfl, by simp [encode, Encoded.toAccess, Access.busWrite, isAligned]⟩
theorem msg15R : Statement .msg15R := fun _ => ⟨rfl, by decide⟩
theorem msg15W (v : Word) : Statement (.msg15W v) := fun _ => ⟨rfl, by simp [encode, Encoded.toAccess, Access.busWrite, isAligned]⟩
theorem rsvdR (off : Offset) : Statement (.rsvdR off) := fun h => ⟨rfl, aligned_of_reserved h⟩
theorem rsvdW (off : Offset) (v : Word) : Statement (.rsvdW off v) := fun h => ⟨rfl, aligned_of_reserved h⟩

end Sys2Proof.Laws.EncodeAdmitted
end

