-- ==== Sys2Proof/Laws/Step.lean ====
section
/-! SUPPORT. What a step can do to the block, said once: one inversion lemma, from which every claim about steps follows. -/

namespace Sys2Proof.Machine

variable {s t : State}

/-- An instruction leaves the surroundings of the block alone. -/
theorem exec_surroundings {i : Instr} (h : exec i s = .next t) :
    t.inReset = s.inReset ∧ t.schedule = s.schedule ∧ t.pending = s.pending ∧ t.reads = s.reads := by
  rcases exec_cases i s with ⟨_, v, d, h', _⟩ | ⟨_, f, _, h'⟩ | ⟨v, _, h'⟩ | ⟨_, _, _, h'⟩ <;>
    (rw [h'] at h; injection h with h; subst h; exact ⟨rfl, rfl, rfl, rfl⟩)

/-- An access that answers next ran its instruction and kept what it read. -/
theorem runAccess_next {a : Access} (h : runAccess a s = .next t) :
    ∃ i u, accessInstr a = .ok i ∧ exec i s = .next u ∧ t = u.keepRead a.dir := by
  unfold runAccess at h
  split at h
  · rename_i i hi
    obtain ⟨u, hu, ht⟩ := andThen_next_iff.mp h
    exact ⟨i, u, hi, hu, ht⟩
  · cases h

/-- A polling read that answers next ran its read and tested its word. -/
theorem runPoll_next {off : Offset} {mask val : Word} {rest : List HostItem}
    (h : runPoll off mask val rest s = .next t) :
    ∃ i u, accessInstr (.busRead off) = .ok i ∧ exec i s = .next u ∧ t = u.endPoll mask val rest := by
  unfold runPoll at h
  split at h
  · rename_i i hi
    obtain ⟨u, hu, ht⟩ := andThen_next_iff.mp h
    exact ⟨i, u, hi, hu, ht⟩
  · cases h

/-- The engine moves only while BUSY = 1 (R58). -/
theorem busy_of_engineTurn (h : s.engineTurn = true) : s.block.busy = true := by
  simp only [State.engineTurn, Bool.and_eq_true] at h
  exact h.1

/-- Everything a step that answers next can do to the block: nothing, a reset load, an engine round, the fold, or what the instruction of
the pending access or poll does. -/
theorem step_block_cases (h : step s = .next t) :
    t.block = s.block ∨
      (s.inReset = false ∧ s.engineTurn = false ∧ (∃ rest, s.pending = .resetAssert :: rest) ∧ t.block = Block.reset) ∨
      (s.inReset = true ∧ (∃ rest, s.pending = .resetDeassert :: rest) ∧ t.block = Block.reset) ∨
      (s.inReset = false ∧ s.engineTurn = true ∧ s.block.rnd.toNat ≤ 79 ∧ t.block = s.block.engineRound) ∨
      (s.inReset = false ∧ s.engineTurn = true ∧ s.block.rnd = 80#7 ∧ t.block = s.block.fold) ∨
      (∃ a rest i s' u, s.inReset = false ∧ s.engineTurn = false ∧ s.pending = .access a :: rest ∧ s'.block = s.block ∧
        accessInstr a = .ok i ∧ exec i s' = .next u ∧ t.block = u.block) ∨
      (∃ off mask val rest i s' u, s.inReset = false ∧ s.engineTurn = false ∧
        s.pending = .poll off mask val :: rest ∧ s'.block = s.block ∧
        accessInstr (.busRead off) = .ok i ∧ exec i s' = .next u ∧ t.block = u.block) := by
  unfold step at h
  split at h
  case isTrue hr =>
    unfold resetStep at h
    split at h
    case h_1 => injection h with h; exact .inl (by rw [h])
    case h_2 => cases h
    case h_3 => cases h
    case h_4 => injection h with h; subst h; exact .inl rfl
    case h_5 rest hp => injection h with h; subst h; exact .inr (.inr (.inl ⟨hr, ⟨rest, hp⟩, rfl⟩))
  case isFalse hr =>
    have hr : s.inReset = false := by simpa using hr
    split at h
    case isTrue he =>
      rcases engineStep_cases (s := s.useTurn) with ⟨h1, h2⟩ | ⟨h1, h2⟩ | ⟨_, h2⟩ <;> rw [h2] at h
      · injection h with h
        subst h
        exact .inr (.inr (.inr (.inl ⟨hr, he, by simpa using h1, by simp⟩)))
      · injection h with h
        subst h
        exact .inr (.inr (.inr (.inr (.inl ⟨hr, he, by simpa using h1, by simp⟩))))
      · cases h
    case isFalse he =>
      have he : s.engineTurn = false := by simpa using he
      unfold hostStep at h
      simp only [State.useTurn_pending] at h
      split at h
      case h_1 => injection h with h; subst h; exact .inl (by simp)
      case h_2 a rest hp =>
        obtain ⟨i, u, hi, hu, ht⟩ := runAccess_next h
        exact .inr (.inr (.inr (.inr (.inr (.inl ⟨a, rest, i, _, u, hr, he, hp, by simp, hi, hu, by simp [ht]⟩)))))
      case h_3 off mask val rest hp =>
        obtain ⟨i, u, hi, hu, ht⟩ := runPoll_next h
        exact .inr (.inr (.inr (.inr (.inr (.inr
          ⟨off, mask, val, rest, i, _, u, hr, he, hp, by simp, hi, hu, by simp [ht]⟩)))))
      case h_4 rest hp => injection h with h; subst h; exact .inr (.inl ⟨hr, he, ⟨rest, hp⟩, by simp⟩)
      case h_5 => injection h with h; subst h; exact .inl (by simp)

/-- Steps taken one after the other. -/
theorem steps_add (m n : Nat) (h : steps m s = .next t) : steps (m + n) s = steps n t := by
  induction m generalizing s with
  | zero =>
    simp only [steps] at h
    injection h with h
    simp [h]
  | succ m ih =>
    cases hs : step s with
    | next u =>
      rw [steps_succ m hs] at h
      rw [Nat.add_right_comm, steps_succ _ hs]
      exact ih h
    | fault r => simp [steps, hs] at h
    | refused r => simp [steps, hs] at h

end Sys2Proof.Machine
end

