-- ==== Sys2Proof/Laws/Run.lean ====
section
/-! SUPPORT. How a host program runs on the block: the end of a run, one access at a time while idle, and the wait for the fold under any
list of turns. -/

namespace Sys2Proof.Machine

variable {s t u : State}

/-- A run of some steps leads from s to t. -/
def Reaches (s t : State) : Prop := ∃ n, steps n s = .next t

theorem Reaches.refl (s : State) : Reaches s s := ⟨0, rfl⟩

theorem Reaches.of_step (h : step s = .next t) : Reaches s t := ⟨1, by simp [steps, h]⟩

theorem Reaches.trans (h : Reaches s t) (h' : Reaches t u) : Reaches s u := by
  obtain ⟨m, hm⟩ := h
  obtain ⟨n, hn⟩ := h'
  exact ⟨m + n, by rw [steps_add m n hm, hn]⟩

/-- A state where a run has ended steps to itself (R234, R260). -/
theorem step_of_isFinal (h : s.isFinal = true) : step s = .next s := by
  obtain ⟨hp, hb⟩ : s.pending = [] ∧ s.block.busy = false := by simpa [State.isFinal] using h
  cases hr : s.inReset <;> simp [step, resetStep, hostStep, State.engineTurn, State.useTurn, hr, hp, hb]

theorem steps_of_isFinal (n : Nat) (h : s.isFinal = true) : steps n s = .next s := by
  induction n with
  | zero => rfl
  | succ n ih => rw [steps_succ n (step_of_isFinal h), ih]

/-- A program whose run reaches its end runs to that end, whatever more steps are allowed. -/
theorem runProgram_of_reaches {program : List HostOp} (h : Reaches (s.issue program) t) (hf : t.isFinal = true) :
    ∃ n₀, ∀ n, n₀ ≤ n → runProgram n program s = .ok t := by
  obtain ⟨n₀, hn₀⟩ := h
  refine ⟨n₀, fun n hn => ?_⟩
  obtain ⟨k, rfl⟩ := Nat.exists_eq_add_of_le hn
  simp [runProgram, steps_add n₀ k hn₀, steps_of_isFinal k hf, hf]

/-- While idle and out of reset, the host moves and no turn is used (R58). -/
theorem step_idle (hr : s.inReset = false) (hb : s.block.busy = false) : step s = hostStep s := by
  simp [step, State.engineTurn, State.useTurn, hr, hb]

/-- While idle and out of reset, a first pending write runs its instruction. -/
theorem step_idle_write {o : Offset} {v : Word} {rest : List HostItem} {i : Instr} (hr : s.inReset = false)
    (hb : s.block.busy = false) (hp : s.pending = .access (.busWrite o v) :: rest)
    (hi : accessInstr (.busWrite o v) = .ok i) (hx : exec i { s with pending := rest } = .next t) : step s = .next t := by
  rw [step_idle hr hb]
  simp only [hostStep, hp, runAccess, hi, hx, andThen]
  rfl

/-- While idle and out of reset, a first pending read runs its instruction and its word is kept. -/
theorem step_idle_read {o : Offset} {rest : List HostItem} {i : Instr} (hr : s.inReset = false)
    (hb : s.block.busy = false) (hp : s.pending = .access (.busRead o) :: rest)
    (hi : accessInstr (.busRead o) = .ok i) (hx : exec i { s with pending := rest } = .next t) :
    step s = .next { t with reads := t.reads ++ [t.rdata] } := by
  rw [step_idle hr hb]
  simp only [hostStep, hp, runAccess, hi, hx, andThen]
  rfl

/-- The item of the line WAIT (R87). -/
def waitItem : HostItem := .poll 0x04#8 0x00000001#32 0x00000000#32

/-- Bit 0 of STATUS is BUSY (R28). -/
theorem status_and_one (b : Block) : b.status &&& 0x00000001#32 = flagWord b.busy := by
  ext i hi
  cases i with
  | zero => cases h : b.busy <;> simp [Block.status, flagWord] <;> exact h
  | succ i => cases b.busy <;> simp [flagWord]

/-- One read of WAIT: over when BUSY = 0, and otherwise first in the list again; the block does not change (R55, R87). -/
theorem hostStep_wait {rest : List HostItem} (hp : s.pending = waitItem :: rest) :
    hostStep s = .next { s with rdata := s.block.status, pending := if s.block.busy then s.pending else rest } := by
  have hi : accessInstr (.busRead 0x04#8) = .ok .statusR := by decide
  have hx : exec .statusR s = .next { s with rdata := s.block.status } := rfl
  simp only [hostStep, hp, waitItem, runPoll, hi, hx, andThen, State.endPoll, status_and_one]
  cases hb : s.block.busy <;> simp [flagWord]

@[simp] theorem engineRound_iterate_busy (b : Block) (k : Nat) : (Block.engineRound^[k] b).busy = b.busy := by
  induction k with
  | zero => rfl
  | succ k ih => rw [Function.iterate_succ_apply', Block.engineRound_busy, ih]

/-- After k rounds from a start, RND is k (R26). -/
theorem engineRound_iterate_rnd {b : Block} (h : b.rnd = 0#7) (k : Nat) :
    (Block.engineRound^[k] b).rnd = BitVec.ofNat 7 k := by
  induction k with
  | zero => exact h
  | succ k ih => rw [Function.iterate_succ_apply', Block.engineRound_rnd, ih, ← BitVec.ofNat_add]

/-- A host at WAIT, k rounds after a start, whatever the turns: the rest of the rounds and the fold happen, the loop ends, and nothing
else of the block or of the host's list changes (R58, R87, R136, R259). -/
theorem wait_reaches_fold {b : Block} (hb : b.busy = true) (h0 : b.rnd = 0#7) {rest : List HostItem} {k : Nat} (hk : k ≤ 80)
    (hr : s.inReset = false) (hp : s.pending = waitItem :: rest) (hs : s.block = Block.engineRound^[k] b) :
    ∃ t, Reaches s t ∧ t.block = (Block.engineRound^[80] b).fold ∧ t.inReset = false ∧ t.pending = rest ∧ t.reads = s.reads := by
  generalize hn : 80 - k + s.schedule.length = n
  induction n using Nat.strong_induction_on generalizing s k with
  | _ n ih =>
    have hbusy : s.block.busy = true := by rw [hs, engineRound_iterate_busy, hb]
    have hrnd : s.block.rnd.toNat = k := by
      rw [hs, engineRound_iterate_rnd h0, BitVec.toNat_ofNat]
      omega
    cases he : s.engineTurn with
    | false =>
      have hlen : s.schedule.tail.length < s.schedule.length := by
        cases hq : s.schedule with
        | nil => simp [State.engineTurn, hq, hbusy] at he
        | cons a l => simp
      have hstep : step s = .next { s with rdata := s.block.status, schedule := s.schedule.tail } := by
        have hu : s.useTurn.pending = waitItem :: rest := by rw [State.useTurn_pending, hp]
        simp only [step, hr, he, hostStep_wait hu, State.useTurn_block, hbusy, State.useTurn_pending]
        simp [State.useTurn, hbusy, hr]
      obtain ⟨t, h1, h2, h3, h4, h5⟩ :=
        ih _ (by simp only; omega) (s := { s with rdata := s.block.status, schedule := s.schedule.tail }) hk hr hp hs rfl
      exact ⟨t, (Reaches.of_step hstep).trans h1, h2, h3, h4, h5⟩
    | true =>
      have hstep : step s = engineStep { s with schedule := s.schedule.tail } := by simp [step, State.useTurn, hr, he, hbusy]
      by_cases hlt : k ≤ 79
      · have hround : step s = .next { s with schedule := s.schedule.tail, block := s.block.engineRound } := by
          simp [hstep, engineStep, hrnd, hlt]
        obtain ⟨t, h1, h2, h3, h4, h5⟩ :=
          ih (80 - (k + 1) + s.schedule.tail.length) (by simp only [List.length_tail]; omega)
            (s := { s with schedule := s.schedule.tail, block := s.block.engineRound }) (k := k + 1) (by omega) hr hp
            (by rw [Function.iterate_succ_apply', ← hs]) rfl
        exact ⟨t, (Reaches.of_step hround).trans h1, h2, h3, h4, h5⟩
      · obtain rfl : k = 80 := by omega
        have hfold : step s = .next { s with schedule := s.schedule.tail, block := s.block.fold } := by
          simp [hstep, engineStep, hrnd]
        have hpoll := step_idle (s := { s with schedule := s.schedule.tail, block := s.block.fold }) hr rfl
        rw [hostStep_wait (s := { s with schedule := s.schedule.tail, block := s.block.fold }) hp] at hpoll
        exact ⟨_, (Reaches.of_step hfold).trans (Reaches.of_step hpoll), by rw [← hs], hr, rfl, rfl⟩

end Sys2Proof.Machine
end

