-- ==== Sys2Proof/Laws/Schedule.lean ====
section
/-! SUPPORT. The unfolding of the schedule, the window, the rounds and the padding, once each. -/

namespace Sys2Proof.Machine

@[simp] theorem expand_zero (m : Vector Word 16) : expand m 0 = m.toList := rfl

theorem expand_succ (m : Vector Word 16) (n : Nat) :
    expand m (n + 1) = expand m n ++ [nextScheduleWord (expand m n)] := rfl

@[simp] theorem expand_length (m : Vector Word 16) (n : Nat) : (expand m n).length = 16 + n := by
  induction n with
  | zero => simp
  | succ n ih => simp [expand_succ, ih]; omega

/-- A longer expansion keeps the words of a shorter one. -/
theorem expand_add_getD (m : Vector Word 16) (n k t : Nat) (h : t < 16 + n) :
    (expand m (n + k)).getD t 0#32 = (expand m n).getD t 0#32 := by
  induction k with
  | zero => rfl
  | succ k ih =>
    have hlt : t < (expand m (n + k)).length := by simp; omega
    rw [← ih, ← Nat.add_assoc, expand_succ]
    simp [List.getD, List.getElem?_append_left hlt]

@[simp] theorem windowAfter_zero (m : Vector Word 16) : windowAfter m 0 = m := rfl

theorem windowAfter_succ (m : Vector Word 16) (n : Nat) :
    windowAfter m (n + 1) = windowForRound (windowAfter m n) n := rfl

@[simp] theorem rounds_zero (w : Nat → Word) (x : Work) : rounds w 0 x = x := rfl

theorem rounds_succ (w : Nat → Word) (n : Nat) (x : Work) :
    rounds w (n + 1) x = (rounds w n x).round n (w n) := rfl

/-- compress as the fold of eighty rounds, not unfolded further. -/
theorem compress_eq (h : Vector Word 5) (m : Vector Word 16) :
    compress h m = foldSum h (rounds (scheduleWord m) 80 (Work.seed h)) := by
  unfold compress
  rfl

@[simp] theorem bytesBe_length (v n : Nat) : (bytesBe v n).length = n := by
  induction n with
  | zero => rfl
  | succ n ih => simp [bytesBe, ih]

@[simp] theorem hexDigits_length (digit : Nat → Char) (v n : Nat) : (hexDigits digit v n).length = n := by
  induction n with
  | zero => rfl
  | succ n ih => simp [hexDigits, ih]

end Sys2Proof.Machine
end

