-- ==== Sys2Proof/Tests/Slice0.lean ====
section
/-! SUPPORT. The model's own tests. Expected values come from spec/95_test_vectors.md, from the tables of spec/30_encoding.md and
spec/20_memory.md, or by hand from the rule named. test_…: a check on fixed values. witness_<Obligation>: a state and operands that
meet that statement's hypotheses together, for each of its clauses. -/

namespace Sys2Proof.Tests

open Sys2Proof Sys2Proof.Machine

/-! ### Small states -/

/-- The next state of an outcome. -/
def after (o : Host.Outcome State Fault Refusal) : Option State :=
  match o with
  | .next s => some s
  | .fault _ => none
  | .refused _ => none

/-- The refusal of an outcome. -/
def refusal (o : Host.Outcome State Fault Refusal) : Option Refusal :=
  match o with
  | .next _ => none
  | .fault _ => none
  | .refused r => some r

/-- Reset, with a given block. -/
def withBlock (b : Block) : State := { State.reset with block := b }

/-- The empty block of spec/95_test_vectors.md. -/
def emptyBlock : Vector Word 16 := (Vector.replicate 16 0#32).set 0 0x80000000#32

/-- The block of the fox sentence (spec/95_test_vectors.md section 2). -/
def foxBlock : Vector Word 16 :=
  #v[0x54686520#32, 0x71756963#32, 0x6b206272#32, 0x6f776e20#32, 0x666f7820#32, 0x6a756d70#32, 0x73206f76#32, 0x65722074#32,
     0x6865206c#32, 0x617a7920#32, 0x646f6780#32, 0#32, 0#32, 0#32, 0#32, 0x00000158#32]

/-- Idle, H = (1, 2, 3, 4, 5). -/
def countingBlock : Block := { Block.reset with h := #v[1#32, 2#32, 3#32, 4#32, 5#32] }

/-- Idle, all sixteen words written. -/
def fullBlock : Block := { Block.reset with msg := emptyBlock, mvalid := 0xFFFF#16 }

/-- Busy, right after an accepted COMPRESS of the empty block. -/
def busyBlock : Block := fullBlock.start

/-- Busy, all error bits set. -/
def noisyBlock : Block := { busyBlock with errCmd := true, errBusy := true, errIncomplete := true }

/-- Busy, with the round counter at r; the contents are those of the start. -/
def busyAt (r : BitVec 7) : State := withBlock { busyBlock with rnd := r }

/-- Busy, the host's turn next. -/
def hostTurn (l : List HostItem) : State := { withBlock busyBlock with schedule := [.host], pending := l }

/-- Idle after reset, with pending items. -/
def waiting (l : List HostItem) : State := { State.reset with pending := l }

/-! ### WellFormed: an ill-formed term is refused -/

/-- 0x10 is H[0], not a reserved offset (R52). -/
theorem test_rsvdR_of_named_register_is_ill_formed : (Instr.rsvdR 0x10#8).wf = false := by decide
/-- 0x09 is no word slot (R51). -/
theorem test_rsvdW_of_unaligned_offset_is_ill_formed : (Instr.rsvdW 0x09#8 0#32).wf = false := by decide
/-- 0x40 and 0x04 lie just outside the reserved ranges. -/
theorem test_rsvd_just_outside_ranges_is_ill_formed :
    (Instr.rsvdR 0x40#8).wf = false ∧ (Instr.rsvdW 0x20#8 0#32).wf = false ∧ (Instr.rsvdR 0x7C#8).wf = false := by decide
/-- The ends of the reserved ranges are reserved (R52). -/
theorem test_rsvd_range_ends_are_well_formed :
    (Instr.rsvdR 0x08#8).wf = true ∧ (Instr.rsvdR 0x0C#8).wf = true ∧ (Instr.rsvdR 0x24#8).wf = true ∧
      (Instr.rsvdW 0x3C#8 7#32).wf = true ∧ (Instr.rsvdW 0x80#8 7#32).wf = true ∧ (Instr.rsvdR 0xFC#8).wf = true := by decide

/-! ### Decoding, every constructor, from the spec's encodings -/

/-- The opcode map of command words (R82), bit by bit. -/
theorem test_decode_commands :
    decode (.cmd 0b00000000000000000000000000000000#32) = .ok .nop ∧
    decode (.cmd 0b00000000000000000000000000000001#32) = .ok .init ∧
    decode (.cmd 0b00000000000000000000000000000010#32) = .ok .compress := by decide

/-- OP 0x3 to 0xF and RSVD not zero are illegal command words (R84). -/
theorem test_decode_illegal_commands :
    decode (.cmd 0x00000003#32) = .error (.illegalCommand 0x00000003#32) ∧
    decode (.cmd 0x0000000F#32) = .error (.illegalCommand 0x0000000F#32) ∧
    decode (.cmd 0x00000012#32) = .error (.illegalCommand 0x00000012#32) ∧
    decode (.cmd 0x80000001#32) = .error (.illegalCommand 0x80000001#32) := by decide

/-- A read of the window at an offset. -/
def rd (o : Offset) : Encoded := .bus { offset := o, bits := 32, dir := .read }

/-- A write of the window at an offset. -/
def wr (o : Offset) (v : Word) : Encoded := .bus { offset := o, bits := 32, dir := .write v }

theorem test_decode_control_rows :
    decode (rd 0x00#8) = .ok .cmdR ∧ decode (wr 0x00#8 0x12#32) = .ok (.cmdW 0x12#32) ∧
    decode (rd 0x04#8) = .ok .statusR ∧ decode (wr 0x04#8 0x700#32) = .ok (.statusW 0x700#32) := by decide

theorem test_decode_digest_reads :
    decode (rd 0x10#8) = .ok .h0R ∧ decode (rd 0x14#8) = .ok .h1R ∧ decode (rd 0x18#8) = .ok .h2R ∧
    decode (rd 0x1C#8) = .ok .h3R ∧ decode (rd 0x20#8) = .ok .h4R := by decide

theorem test_decode_digest_writes :
    decode (wr 0x10#8 1#32) = .ok (.h0W 1#32) ∧ decode (wr 0x14#8 2#32) = .ok (.h1W 2#32) ∧
    decode (wr 0x18#8 3#32) = .ok (.h2W 3#32) ∧ decode (wr 0x1C#8 4#32) = .ok (.h3W 4#32) ∧
    decode (wr 0x20#8 5#32) = .ok (.h4W 5#32) := by decide

theorem test_decode_window_reads_low :
    decode (rd 0x40#8) = .ok .msg0R ∧ decode (rd 0x44#8) = .ok .msg1R ∧ decode (rd 0x48#8) = .ok .msg2R ∧
    decode (rd 0x4C#8) = .ok .msg3R ∧ decode (rd 0x50#8) = .ok .msg4R ∧ decode (rd 0x54#8) = .ok .msg5R ∧
    decode (rd 0x58#8) = .ok .msg6R ∧ decode (rd 0x5C#8) = .ok .msg7R := by decide

theorem test_decode_window_reads_high :
    decode (rd 0x60#8) = .ok .msg8R ∧ decode (rd 0x64#8) = .ok .msg9R ∧ decode (rd 0x68#8) = .ok .msg10R ∧
    decode (rd 0x6C#8) = .ok .msg11R ∧ decode (rd 0x70#8) = .ok .msg12R ∧ decode (rd 0x74#8) = .ok .msg13R ∧
    decode (rd 0x78#8) = .ok .msg14R ∧ decode (rd 0x7C#8) = .ok .msg15R := by decide

theorem test_decode_window_writes_low :
    decode (wr 0x40#8 0#32) = .ok (.msg0W 0#32) ∧ decode (wr 0x44#8 1#32) = .ok (.msg1W 1#32) ∧
    decode (wr 0x48#8 2#32) = .ok (.msg2W 2#32) ∧ decode (wr 0x4C#8 3#32) = .ok (.msg3W 3#32) ∧
    decode (wr 0x50#8 4#32) = .ok (.msg4W 4#32) ∧ decode (wr 0x54#8 5#32) = .ok (.msg5W 5#32) ∧
    decode (wr 0x58#8 6#32) = .ok (.msg6W 6#32) ∧ decode (wr 0x5C#8 7#32) = .ok (.msg7W 7#32) := by decide

theorem test_decode_window_writes_high :
    decode (wr 0x60#8 8#32) = .ok (.msg8W 8#32) ∧ decode (wr 0x64#8 9#32) = .ok (.msg9W 9#32) ∧
    decode (wr 0x68#8 10#32) = .ok (.msg10W 10#32) ∧ decode (wr 0x6C#8 11#32) = .ok (.msg11W 11#32) ∧
    decode (wr 0x70#8 12#32) = .ok (.msg12W 12#32) ∧ decode (wr 0x74#8 13#32) = .ok (.msg13W 13#32) ∧
    decode (wr 0x78#8 14#32) = .ok (.msg14W 14#32) ∧ decode (wr 0x7C#8 15#32) = .ok (.msg15W 15#32) := by decide

theorem test_decode_reserved_rows :
    decode (rd 0x08#8) = .ok (.rsvdR 0x08#8) ∧ decode (rd 0x3C#8) = .ok (.rsvdR 0x3C#8) ∧
    decode (rd 0xFC#8) = .ok (.rsvdR 0xFC#8) ∧ decode (wr 0x0C#8 9#32) = .ok (.rsvdW 0x0C#8 9#32) ∧
    decode (wr 0x80#8 9#32) = .ok (.rsvdW 0x80#8 9#32) := by decide

/-- Only a 32-bit access at a multiple of 4 is an access (R54). -/
theorem test_decode_refuses_other_accesses :
    decode (.bus { offset := 0x10#8, bits := 8, dir := .read }) = .error (.accessWidth 8) ∧
    decode (.bus { offset := 0x10#8, bits := 64, dir := .write 0#32 }) = .error (.accessWidth 64) ∧
    decode (rd 0x12#8) = .error (.misaligned 0x12#8) ∧ decode (wr 0x41#8 0#32) = .error (.misaligned 0x41#8) := by decide

/-- A CMD write of a command word is that command; of another word it stays CMD_W (the table's note on CMD_W). -/
theorem test_command_write_resolves :
    accessInstr (.busWrite 0x00#8 2#32) = .ok .compress ∧ accessInstr (.busWrite 0x00#8 3#32) = .ok (.cmdW 3#32) := by decide

/-- The host's table words: a 32-bit row is a command, an 8-bit row an offset. -/
theorem test_decodeTableWord :
    decodeTableWord 32 1 = some .init ∧ decodeTableWord 8 0x7C = some .msg15R ∧ decodeTableWord 8 0x80 = some (.rsvdR 0x80#8) ∧
    decodeTableWord 32 0x12 = none ∧ decodeTableWord 8 0x12 = none := by decide

/-! ### One step per access (spec/95_test_vectors.md section 5) -/

theorem test_nop_idle : after (exec .nop (withBlock countingBlock)) = some (withBlock countingBlock) := by decide
theorem test_init_from_counting : after (exec .init (withBlock countingBlock)) = some State.reset := by decide
theorem test_init_busy_raises :
    after (exec .init (withBlock busyBlock)) = some (withBlock { busyBlock with errBusy := true }) := by decide
theorem test_compress_incomplete :
    after (exec .compress (withBlock { fullBlock with mvalid := 0x7FFF#16 })) =
      some (withBlock { fullBlock with mvalid := 0x7FFF#16, errIncomplete := true }) := by decide
theorem test_compress_start_status :
    (after (exec .compress (withBlock fullBlock))).map (fun t => (t.block.status, t.block.rnd, t.block.work)) =
      some (0xFFFF0001#32, 0#7, ⟨0x67452301#32, 0xEFCDAB89#32, 0x98BADCFE#32, 0x10325476#32, 0xC3D2E1F0#32⟩) := by decide
theorem test_cmdW_rsvd_not_zero :
    after (exec (.cmdW 0x00000012#32) (withBlock fullBlock)) = some (withBlock { fullBlock with errCmd := true }) := by decide
theorem test_cmdW_busy_is_errBusy_only :
    after (exec (.cmdW 0x00000003#32) (withBlock busyBlock)) = some (withBlock { busyBlock with errBusy := true }) := by decide
theorem test_cmdR_is_zero :
    (after (exec .cmdR { withBlock busyBlock with rdata := 7#32 })).map State.rdata = some 0#32 := by decide
theorem test_statusR_four_words :
    (after (exec .statusR (withBlock { Block.reset with mvalid := 0x000F#16 }))).map State.rdata = some 0x000F0000#32 := by decide
theorem test_statusR_errors :
    (after (exec .statusR (withBlock { Block.reset with errCmd := true, errIncomplete := true }))).map State.rdata =
      some 0x00000500#32 := by decide
theorem test_statusW_clears_only_errBusy :
    after (exec (.statusW 0x00000200#32) (withBlock noisyBlock)) = some (withBlock { noisyBlock with errBusy := false }) := by decide
theorem test_statusW_zero_bit_clears_nothing :
    after (exec (.statusW 0xFFFFFEFF#32) (withBlock { fullBlock with errCmd := true })) =
      some (withBlock { fullBlock with errCmd := true }) := by decide
theorem test_digest_reads_after_reset :
    (after (exec .h0R State.reset)).map State.rdata = some 0x67452301#32 ∧
    (after (exec .h1R State.reset)).map State.rdata = some 0xEFCDAB89#32 ∧
    (after (exec .h2R State.reset)).map State.rdata = some 0x98BADCFE#32 ∧
    (after (exec .h3R State.reset)).map State.rdata = some 0x10325476#32 ∧
    (after (exec .h4R State.reset)).map State.rdata = some 0xC3D2E1F0#32 := by decide
theorem test_h4W_writes_its_own_slot :
    after (exec (.h4W 9#32) (withBlock countingBlock)) =
      some (withBlock { countingBlock with h := #v[1#32, 2#32, 3#32, 4#32, 9#32] }) := by decide
theorem test_h0W_busy :
    after (exec (.h0W 0#32) (withBlock busyBlock)) = some (withBlock { busyBlock with errBusy := true }) := by decide
theorem test_msg_reads_idle :
    (after (exec .msg0R (withBlock { Block.reset with msg := foxBlock }))).map State.rdata = some 0x54686520#32 ∧
    (after (exec .msg15R (withBlock { Block.reset with msg := foxBlock }))).map State.rdata = some 0x00000158#32 := by decide
/-- A MSG read while busy draws one free value and changes nothing of the block (R255). -/
theorem test_msg0R_busy_draws :
    (after (exec .msg0R (withBlock busyBlock))).map (fun t => (t.draws, t.block)) = some (1, busyBlock) := by decide
theorem test_msg0W_twice :
    (after (execAll [.msg0W 0x11111111#32, .msg0W 0x22222222#32] State.reset)).map (fun t => (t.block.msg[0], t.block.mvalid)) =
      some (0x22222222#32, 0x0001#16) := by decide
theorem test_msg15W_busy :
    after (exec (.msg15W 0x12345678#32) (withBlock busyBlock)) = some (withBlock { busyBlock with errBusy := true }) := by decide
theorem test_rsvdR_busy : (after (exec (.rsvdR 0xFC#8) { withBlock busyBlock with rdata := 7#32 })).map State.rdata = some 0#32 := by
  decide
theorem test_rsvdW_changes_nothing :
    after (exec (.rsvdW 0x80#8 0xFFFFFFFF#32) (withBlock busyBlock)) = some (withBlock busyBlock) := by decide

/-! ### Steps -/

/-- The first step after a placed table word runs that word: COMPRESS after reset finds MVALID = 0. -/
theorem test_withFetchWord_command :
    (after (step (State.reset.withFetchWord 32 2))).map State.block = some { Block.reset with errIncomplete := true } := by decide
/-- A placed offset is read, and the host keeps the word. -/
theorem test_withFetchWord_read :
    (after (step (State.reset.withFetchWord 8 0x18))).map State.reads = some [0x98BADCFE#32] := by decide
/-- Placed while busy, the word is still the very next step. -/
theorem test_withFetchWord_busy :
    (after (step ((withBlock busyBlock).withFetchWord 32 1))).map State.block = some { busyBlock with errBusy := true } := by decide
/-- Busy with no turn left: the engine moves, round 0 of the empty block (spec/95_test_vectors.md section 4). -/
theorem test_step_engine_round_zero :
    (after (step (withBlock busyBlock))).map (fun t => (t.block.work, t.block.rnd)) =
      some (⟨0x1fb498b3#32, 0x67452301#32, 0x7bf36ae2#32, 0x98badcfe#32, 0x10325476#32⟩, 1#7) := by decide
theorem test_step_fault_past_eighty : step (busyAt 81#7) = .fault .noEngineStep := rfl
theorem test_step_access_in_reset_is_refused :
    refusal (step { waiting [.access (.busRead 0x04#8)] with inReset := true }) = some .duringReset := by decide

/-! ### Arithmetic (spec/95_test_vectors.md sections 3 and 4) -/

theorem test_rotl_vectors :
    rotl 0x80000000#32 1 = 0x00000001#32 ∧ rotl 0xFFFFFFFF#32 1 = 0xFFFFFFFF#32 ∧ rotl 0x67452301#32 5 = 0xe8a4602c#32 ∧
    rotl 0x80000001#32 5 = 0x00000030#32 ∧ rotl 0xefcdab89#32 30 = 0x7bf36ae2#32 ∧ rotl 0x00000001#32 30 = 0x40000000#32 := by decide
theorem test_round_function_vectors :
    roundFn 0 0xaaaaaaaa#32 0xcccccccc#32 0xf0f0f0f0#32 = 0xd8d8d8d8#32 ∧
    roundFn 20 0xaaaaaaaa#32 0xcccccccc#32 0xf0f0f0f0#32 = 0x96969696#32 ∧
    roundFn 40 0xaaaaaaaa#32 0xcccccccc#32 0xf0f0f0f0#32 = 0xe8e8e8e8#32 := by decide
theorem test_round_constant_boundaries :
    roundConst 0 = 0x5A827999#32 ∧ roundConst 19 = 0x5A827999#32 ∧ roundConst 20 = 0x6ED9EBA1#32 ∧ roundConst 39 = 0x6ED9EBA1#32 ∧
    roundConst 40 = 0x8F1BBCDC#32 ∧ roundConst 59 = 0x8F1BBCDC#32 ∧ roundConst 60 = 0xCA62C1D6#32 ∧
    roundConst 79 = 0xCA62C1D6#32 := by decide
/-- Rounds 19, 20, 40 and 60 of the empty block, each from the state before it, with w[19] = 2, w[20] = 0, w[40] = 0x108,
w[60] = 0x28c8. -/
theorem test_rounds_at_range_boundaries :
    Work.round 19 0x2#32 ⟨0x0b3088dd#32, 0x28a9520e#32, 0xc1afe45c#32, 0xf63f5951#32, 0x50060a41#32⟩ =
      ⟨0xe758e8da#32, 0x0b3088dd#32, 0x8a2a5483#32, 0xc1afe45c#32, 0xf63f5951#32⟩ ∧
    Work.round 20 0x0#32 ⟨0xe758e8da#32, 0x0b3088dd#32, 0x8a2a5483#32, 0xc1afe45c#32, 0xf63f5951#32⟩ =
      ⟨0x90eb9850#32, 0xe758e8da#32, 0x42cc2237#32, 0x8a2a5483#32, 0xc1afe45c#32⟩ ∧
    Work.round 40 0x108#32 ⟨0x9bdbdd71#32, 0x62273351#32, 0xec805e22#32, 0x413c1d9a#32, 0x2aeeae62#32⟩ =
      ⟨0x95aa398b#32, 0x9bdbdd71#32, 0x5889ccd4#32, 0xec805e22#32, 0x413c1d9a#32⟩ ∧
    Work.round 60 0x28c8#32 ⟨0x9b9d2913#32, 0x982bcbca#32, 0xb86beac8#32, 0xc5a3382e#32, 0xaf9292fa#32⟩ =
      ⟨0xd37db937#32, 0x9b9d2913#32, 0xa60af2f2#32, 0xb86beac8#32, 0xc5a3382e#32⟩ := by decide
/-- The five addends all ones (R196, R12). -/
theorem test_fold_wraps :
    foldSum (Vector.replicate 5 0xFFFFFFFF#32) ⟨1#32, 0#32, 2#32, 0xFFFFFFFF#32, 3#32⟩ =
      #v[0#32, 0xFFFFFFFF#32, 1#32, 0xFFFFFFFE#32, 2#32] := by decide
theorem test_schedule_empty_block :
    (List.range 8).map (fun k => scheduleWord emptyBlock (16 + k)) =
      [0x1#32, 0x0#32, 0x0#32, 0x2#32, 0x0#32, 0x0#32, 0x4#32, 0x0#32] := by decide
/-- The window after COMPRESS is w[64..79] (R175), of the empty block. -/
theorem test_window_after_empty_block :
    windowAfter emptyBlock 80 =
      #v[0x000108e8#32, 0#32, 0x0000a000#32, 0x00020080#32, 0x00006400#32, 0#32, 0x00040800#32, 0x00008800#32,
         0x00029c10#32, 0x00080000#32, 0x00008080#32, 0x00002820#32, 0x001088c0#32, 0#32, 0x000a40c0#32, 0x00200080#32] := by
  decide +kernel
/-- S1, the digest of the empty message. -/
theorem test_compress_empty_block :
    compress iv emptyBlock = #v[0xda39a3ee#32, 0x5e6b4b0d#32, 0x3255bfef#32, 0x95601890#32, 0xafd80709#32] := by decide +kernel
/-- S2, the digest of the fox sentence. -/
theorem test_compress_fox_block :
    compress iv foxBlock = #v[0x2fd4e1c6#32, 0x7a2d28fc#32, 0xed849ee1#32, 0xbb76e739#32, 0x1b93eb12#32] := by decide +kernel
theorem test_compress_all_ones :
    compress (Vector.replicate 5 0xFFFFFFFF#32) (Vector.replicate 16 0xFFFFFFFF#32) =
      #v[0x3f48159b#32, 0x2dce51fa#32, 0x8a1e930a#32, 0x02083b68#32, 0xef70d6e8#32] := by decide +kernel

/-! ### Host duties (spec/95_test_vectors.md sections 2 and 6) -/

theorem test_pad_counts :
    [0, 1, 3, 43, 55, 56, 63, 64, 119, 120].map padCount = [55, 54, 52, 12, 0, 63, 56, 55, 0, 63] := by decide
theorem test_pad_abc :
    pad [0x61#8, 0x62#8, 0x63#8] = [0x61#8, 0x62#8, 0x63#8, 0x80#8] ++ List.replicate 59 0#8 ++ [0x18#8] := by decide
theorem test_block_words_abc :
    blocksOf (pad [0x61#8, 0x62#8, 0x63#8]) = [((Vector.replicate 16 0#32).set 0 0x61626380#32).set 15 0x18#32] := by decide
/-- S1 as text (R109). -/
theorem test_digest_hex_empty :
    (digest []).map digestHex = some "da39a3ee5e6b4b0d3255bfef95601890afd80709".toList := by decide +kernel
/-- Three lines of P1's listing. -/
theorem test_listing_lines :
    (HostOp.sw 0x7C#8 0x00000018#32).listing = "W 7C 00000018".toList ∧ (HostOp.lw 0x1C#8).listing = "R 1C".toList ∧
    (HostOp.poll 0x04#8 1#32 0#32).listing = "P 04 00000001 00000000".toList ∧
    parseListing "R 1C ".toList = none := by decide
/-- P1 is the driver's program of the empty message: 25 lines, the first INIT, the last the STATUS read (R107). -/
theorem test_program_of_empty_message :
    (digestProgram []).map (fun p => (p.length, p.head?, p.getLast?)) =
      .ok (25, some (HostOp.sw 0x00#8 1#32), some (HostOp.lw 0x04#8)) := by decide
/-- A restart clears the error bits first (R107, CLRERR of R87). -/
theorem test_restart_clears : restartOps [.lw 0x04#8] = [.sw 0x04#8 0x700#32, .lw 0x04#8] := by decide
/-- The driver's answer of P1's reads, of the same reads with ERR_BUSY set (R227), and of a second attempt whose first is still in
the list. -/
theorem test_driver_result :
    driverResult [1#32, 2#32, 3#32, 4#32, 5#32, 0#32] = .ok #v[1#32, 2#32, 3#32, 4#32, 5#32] ∧
    driverResult [1#32, 2#32, 3#32, 4#32, 5#32, 0x200#32] = .error .interfaceError ∧
    driverResult [9#32, 9#32, 9#32, 9#32, 9#32, 0x100#32, 1#32, 2#32, 3#32, 4#32, 5#32, 0#32] =
      .ok #v[1#32, 2#32, 3#32, 4#32, 5#32] ∧
    driverResult [1#32] = .error .notEnded := by decide
/-- A read error on the input is no empty message (R110). -/
theorem test_input_not_obtained : driverProgram none = .error .inputNotObtained := by decide
/-- P1 on the block from reset, the host polling three times on the way, returns S1; with ERR_CMD left set from before, only the restart
does (R107). -/
theorem test_compute_digest_empty :
    (let s := { State.reset with schedule := [.host, .engine, .host, .host] }
     computeDigest 120 0 (some []) s = .ok #v[0xda39a3ee#32, 0x5e6b4b0d#32, 0x3255bfef#32, 0x95601890#32, 0xafd80709#32]) ∧
    (let s := withBlock { countingBlock with errCmd := true }
     computeDigest 120 0 (some []) s = .error .interfaceError ∧
     computeDigest 120 1 (some []) s =
       .ok #v[0xda39a3ee#32, 0x5e6b4b0d#32, 0x3255bfef#32, 0x95601890#32, 0xafd80709#32]) := by decide +kernel

/-! ### Witnesses: the hypotheses of each statement, met together -/

/-- The host's turn while busy, in round 40, with a reset pulse pending: a COMPRESS is abandoned; then the clauses in reset. -/
theorem witness_ResetAbandonsCompress :
    (let s := { busyAt 40#7 with schedule := [.host], pending := [.resetAssert, .resetDeassert] }
     s.inReset = false ∧ s.engineTurn = false ∧ s.block.busy = true) ∧
    (let s := waiting [.resetAssert, .resetDeassert]; s.inReset = false ∧ s.engineTurn = false) ∧
    (let s := { waiting [.resetDeassert] with inReset := true }; s.inReset = true ∧ s.pending = [.resetDeassert]) ∧
    (let s := { hostTurn [.access (.busRead 0x04#8)] with inReset := true }
     s.inReset = true ∧ s.pending = [.access (.busRead 0x04#8)]) ∧
    (let s := { hostTurn [.poll 0x04#8 1#32 0#32] with inReset := true }
     s.inReset = true ∧ s.pending = [.poll 0x04#8 1#32 0#32]) ∧
    (let s := { withBlock busyBlock with inReset := true }; s.inReset = true ∧ s.pending = []) := by decide

/-- An idle and a busy state. -/
theorem witness_idle_and_busy : (withBlock countingBlock).block.busy = false ∧ (withBlock noisyBlock).block.busy = true := by decide
theorem witness_NopChangesNothing : State.reset.block.busy = false ∧ (withBlock busyBlock).block.busy = true := by decide
theorem witness_InitLoadsInitialValues :
    (withBlock countingBlock).block.busy = false ∧ (withBlock busyBlock).block.busy = true := by decide
theorem witness_CompressStartSeedsWorkingRegisters :
    (withBlock fullBlock).block.busy = false ∧ (withBlock fullBlock).block.mvalid = 0xFFFF#16 := by decide
/-- No word valid, and all but one. -/
theorem witness_CompressNeedsWholeBlock :
    (State.reset.block.busy = false ∧ State.reset.block.mvalid ≠ 0xFFFF#16) ∧
    (let s := withBlock { fullBlock with mvalid := 0x7FFF#16 }; s.block.busy = false ∧ s.block.mvalid ≠ 0xFFFF#16) := by decide
/-- Every clause at the ends of its range: RSVD = 1 with each command's OP, OP = 0, 1, 2, 3, 15. -/
theorem witness_CommandWriteOrderOfTests :
    (withBlock busyBlock).block.busy = true ∧ State.reset.block.busy = false ∧
    (0x00000010#32).extractLsb 31 4 ≠ 0#28 ∧ (0x80000001#32).extractLsb 31 4 ≠ 0#28 ∧
    ((0x00000000#32).extractLsb 31 4 = 0#28 ∧ (0x00000000#32).extractLsb 3 0 = 0x0#4) ∧
    ((0x00000001#32).extractLsb 31 4 = 0#28 ∧ (0x00000001#32).extractLsb 3 0 = 0x1#4) ∧
    ((0x00000002#32).extractLsb 31 4 = 0#28 ∧ (0x00000002#32).extractLsb 3 0 = 0x2#4) ∧
    ((0x00000003#32).extractLsb 31 4 = 0#28 ∧ 3 ≤ ((0x00000003#32).extractLsb 3 0).toNat) ∧
    ((0x0000000F#32).extractLsb 31 4 = 0#28 ∧ 3 ≤ ((0x0000000F#32).extractLsb 3 0).toNat) := by decide
theorem witness_CommandWritePerformsCommand :
    (withBlock fullBlock).block.busy = false ∧ (withBlock fullBlock).block.mvalid = 0xFFFF#16 := by decide
/-- A STATUS write of 0 leaves ERR_BUSY set, a reserved write leaves it as it was. -/
theorem witness_BusyWritesAreDropped :
    (withBlock busyBlock).block.busy = true ∧
    (∃ t, exec (.statusW 0#32) (withBlock noisyBlock) = .next t ∧ t.block.errBusy = true) ∧
    (∃ t, exec (.rsvdW 0x80#8 0#32) (withBlock noisyBlock) = .next t) := ⟨by decide, ⟨_, rfl, by decide⟩, ⟨_, rfl⟩⟩
theorem witness_DigestWritesWhenIdle :
    (withBlock countingBlock).block.busy = false ∧ (withBlock busyBlock).block.busy = true := by decide
theorem witness_WindowReadsWhenIdle : (withBlock { Block.reset with msg := foxBlock }).block.busy = false := by decide
theorem witness_WindowReadsWhenBusyAreFree : (busyAt 80#7).block.busy = true := by decide
theorem witness_WindowWritesMarkValid : State.reset.block.busy = false ∧ (withBlock busyBlock).block.busy = true := by decide
/-- Slot 0 twice and slot 15 once, and what the statement says of slots 0, 1 and 15. -/
theorem witness_WindowLoadInAnyOrder :
    State.reset.block.busy = false ∧
    (let ws : List (Fin 16 × Word) := [(0, 1#32), (15, 2#32), (0, 3#32)]
     (after (execAll (ws.map fun x => decodeWrite (msgOffset x.1) x.2) State.reset)).map
        (fun t => (t.block.mvalid, t.block.msg[0], t.block.msg[1], t.block.msg[15])) =
      some (0x8001#16, 3#32, 0#32, 2#32)) := by decide
/-- The ends of every reserved range (R52). -/
theorem witness_ReservedOffsetsReadZeroIgnoreWrites :
    ∀ off ∈ [0x08#8, 0x0C#8, 0x24#8, 0x3C#8, 0x80#8, 0xFC#8], off.toNat % 4 = 0 ∧
      (off = 0x08#8 ∨ off = 0x0C#8 ∨ (0x24 ≤ off.toNat ∧ off.toNat ≤ 0x3C) ∨ 0x80 ≤ off.toNat) := by decide
/-- A read of MSG while idle, and a read of another register while busy. -/
theorem witness_ReadsHaveNoSideEffects :
    (isRead .msg0R = true ∧ State.reset.block.busy = false) ∧
    (isRead .statusR = true ∧ (withBlock busyBlock).block.busy = true ∧
      ∀ j : Fin 16, Instr.statusR ≠ decodeRead (msgOffset j)) := by decide
/-- Each error raised from a state where it was clear. -/
theorem witness_ErrorsArePrecise :
    (State.reset.block.errCmd = false ∧ ∃ t, exec (.cmdW 3#32) State.reset = .next t ∧ t.block.errCmd = true) ∧
    ((withBlock busyBlock).block.errBusy = false ∧
      ∃ t, exec .init (withBlock busyBlock) = .next t ∧ t.block.errBusy = true) ∧
    (State.reset.block.errIncomplete = false ∧ ∃ t, exec .compress State.reset = .next t ∧ t.block.errIncomplete = true) :=
  ⟨⟨by decide, _, rfl, by decide⟩, ⟨by decide, _, rfl, by decide⟩, ⟨by decide, _, rfl, by decide⟩⟩
/-- All three bits set and cleared: by the host's write of 0x700, by reset's assertion, by its deassertion. -/
theorem witness_ErrorBitsAreSticky :
    (noisyBlock.errCmd = true ∧ noisyBlock.errBusy = true ∧ noisyBlock.errIncomplete = true) ∧
    (∃ t, step { hostTurn [.access (.busWrite 0x04#8 0x700#32)] with block := noisyBlock } = .next t ∧
      t.block.errCmd = false ∧ t.block.errBusy = false ∧ t.block.errIncomplete = false) ∧
    (∃ t, step { hostTurn [.resetAssert] with block := noisyBlock } = .next t ∧
      t.block.errCmd = false ∧ t.block.errBusy = false ∧ t.block.errIncomplete = false) ∧
    (∃ t, step { hostTurn [.resetDeassert] with block := noisyBlock, inReset := true } = .next t ∧
      t.block.errCmd = false ∧ t.block.errBusy = false ∧ t.block.errIncomplete = false) :=
  ⟨by decide, ⟨_, rfl, by decide⟩, ⟨_, rfl, by decide⟩, ⟨_, rfl, by decide⟩⟩
/-- Rounds 0, 15, 16 and 79. -/
theorem witness_EngineRoundStep :
    (let s := busyAt 0#7; s.block.busy = true ∧ s.block.rnd.toNat = 0 ∧ 0 ≤ 79) ∧
    (let s := busyAt 15#7; s.block.busy = true ∧ s.block.rnd.toNat = 15 ∧ 15 ≤ 79) ∧
    (let s := busyAt 16#7; s.block.busy = true ∧ s.block.rnd.toNat = 16 ∧ 16 ≤ 79) ∧
    (let s := busyAt 79#7; s.block.busy = true ∧ s.block.rnd.toNat = 79 ∧ 79 ≤ 79) := by decide
theorem witness_EngineFoldStep : (busyAt 80#7).block.busy = true ∧ (busyAt 80#7).block.rnd = 80#7 := by decide
/-- Each way the turn is the engine's. -/
theorem witness_StepRunsEngineOnItsTurn :
    (let s := busyAt 0#7; s.inReset = false ∧ s.engineTurn = true) ∧
    (let s := { hostTurn [.access (.busRead 0x04#8)] with schedule := [.engine, .host] }
     s.inReset = false ∧ s.engineTurn = true) ∧
    (let s := { busyAt 80#7 with schedule := [.host] }; s.inReset = false ∧ s.engineTurn = true) := by decide
/-- The first and last round of each range. -/
theorem witness_RoundFunctionAndConstantRanges :
    (∀ t ∈ [0, 19], t ≤ 79 ∧ t ≤ 19) ∧ (∀ t ∈ [20, 39], t ≤ 79 ∧ 20 ≤ t ∧ t ≤ 39) ∧
    (∀ t ∈ [40, 59], t ≤ 79 ∧ 40 ≤ t ∧ t ≤ 59) ∧ (∀ t ∈ [60, 79], t ≤ 79 ∧ 60 ≤ t) := by decide
theorem witness_ChooseSelectsBits : (∀ k ∈ [0, 31], k < 32) ∧ (∀ t ∈ [0, 19], t ≤ 19) := by decide
theorem witness_ParityCountsOddBits :
    (∀ t ∈ [20, 39, 60, 79], (20 ≤ t ∧ t ≤ 39) ∨ (60 ≤ t ∧ t ≤ 79)) ∧ (∀ k ∈ [0, 31], k < 32) := by decide
theorem witness_MajorityCountsBits : (∀ t ∈ [40, 59], 40 ≤ t ∧ t ≤ 59) ∧ (∀ k ∈ [0, 31], k < 32) := by decide
theorem witness_RotationMovesBits : (∀ n ∈ [1, 5, 30, 31], 1 ≤ n ∧ n ≤ 31) ∧ (∀ k ∈ [0, 31], k < 32) := by decide
theorem witness_ScheduleRecurrence : ∀ t ∈ [16, 79], 16 ≤ t ∧ t ≤ 79 := by decide
theorem witness_ScheduleIsXorLinear :
    (∀ j : Fin 16, (Vector.ofFn fun j : Fin 16 => emptyBlock[j] ^^^ foxBlock[j])[j] = emptyBlock[j] ^^^ foxBlock[j]) ∧
    (∀ t ∈ [0, 15, 16, 79], t ≤ 79) := by decide
/-- The block right after a start; slot 0 after rounds 0 and 15 holds w[0], after round 16 w[16], after round 79 w[64], and slot 15
then w[79]. -/
theorem witness_WindowHoldsLatestScheduleWords :
    busyBlock.rnd = 0#7 ∧
    (∀ x ∈ [(0, 0, 0), (15, 0, 0), (16, 0, 16), (79, 0, 64), (79, 15, 79)],
      x.1 ≤ 79 ∧ x.2.2 ≤ max x.1 15 ∧ x.2.2 % 16 = x.2.1 ∧
        ∀ r ∈ List.range 80, r ≤ max x.1 15 → r % 16 = x.2.1 → r ≤ x.2.2) ∧
    (∀ x ∈ [(15, 0), (15, 15), (79, 64), (79, 79)], 15 ≤ x.1 ∧ x.1 ≤ 79 ∧ x.1 - 15 ≤ x.2 ∧ x.2 ≤ x.1) ∧
    (∀ t ∈ [16, 79], 16 ≤ t ∧ t ≤ 79) := by decide
theorem witness_WindowDeliversSchedule : busyBlock.rnd = 0#7 ∧ (∀ t ∈ [0, 15, 16, 79], t ≤ 80 ∧ t ≤ 79) ∧ 80 ≤ 80 := by decide
/-- The states of the eighty rounds of the empty block, from IV. -/
theorem witness_CompressIsFoldOfEightyRounds :
    ∃ x : Nat → Work,
      x 0 = { a := iv[0], b := iv[1], c := iv[2], d := iv[3], e := iv[4] } ∧
      ∀ t : Nat, t ≤ 79 →
        x (t + 1) = {
          a := rotl (x t).a 5 + roundFn t (x t).b (x t).c (x t).d + (x t).e + roundConst t + scheduleWord emptyBlock t
          b := (x t).a
          c := rotl (x t).b 30
          d := (x t).c
          e := (x t).d } :=
  ⟨fun t => rounds (scheduleWord emptyBlock) t (Work.seed iv), rfl, fun _ _ => rfl⟩

/-- The block right after an accepted COMPRESS meets the invariant. -/
theorem busyBlock_inv : busyBlock.Inv := ⟨by decide, fun _ => ⟨by decide, emptyBlock, rfl, rfl⟩⟩
/-- The idle full block meets the invariant. -/
theorem fullBlock_inv : fullBlock.Inv := ⟨by decide, fun h => by cases h⟩

/-- An engine step, a host step and a start from states with the invariant. -/
theorem witness_StepKeepsBlockInvariant :
    ((withBlock busyBlock).Inv ∧ ∃ t, step (withBlock busyBlock) = .next t) ∧
    ((hostTurn [.access (.busRead 0x40#8)]).Inv ∧ ∃ t, step (hostTurn [.access (.busRead 0x40#8)]) = .next t) ∧
    (let s := { withBlock fullBlock with pending := [.access (.busWrite 0x00#8 2#32)] }; s.Inv ∧ ∃ t, step s = .next t) :=
  ⟨⟨busyBlock_inv, _, rfl⟩, ⟨busyBlock_inv, _, rfl⟩, ⟨fullBlock_inv, _, rfl⟩⟩
theorem witness_NoFaultUnderInvariant : (withBlock busyBlock).Inv := busyBlock_inv
/-- A COMPRESS with a host polling and writing H[0] in the middle of it. -/
theorem witness_CompressReachesItsFold :
    let s := { withBlock fullBlock with
      schedule := [.engine, .host, .host], pending := [.access (.busWrite 0x10#8 0#32), .poll 0x04#8 1#32 0#32] }
    s.inReset = false ∧ s.block.busy = false ∧ s.block.mvalid = 0xFFFF#16 ∧ (∀ x ∈ s.pending, x.isAdmitted = true) ∧
      ∃ t, exec .compress s = .next t := ⟨by decide, by decide, by decide, by decide, _, rfl⟩
theorem witness_CompressIsEightyOneEngineSteps :
    let s := { withBlock fullBlock with pending := [.poll 0x04#8 1#32 0#32] }
    s.inReset = false ∧ s.block.busy = false ∧ s.block.mvalid = 0xFFFF#16 ∧ s.schedule = [] ∧
      ∃ t, exec .compress s = .next t := ⟨by decide, by decide, by decide, by decide, _, rfl⟩
theorem witness_BusyAccessChangesOnlyErrorBits :
    (withBlock busyBlock).block.busy = true ∧ (∃ t, exec .init (withBlock busyBlock) = .next t) ∧
    (∃ t, exec .msg0R (withBlock busyBlock) = .next t) := ⟨by decide, ⟨_, rfl⟩, ⟨_, rfl⟩⟩
/-- A change of H in each of the five ways. -/
theorem witness_DigestChangesOnlyByRule :
    (∃ t, step (busyAt 80#7) = .next t ∧ t.block.h ≠ (busyAt 80#7).block.h) ∧
    (let s := { withBlock countingBlock with pending := [.access (.busWrite 0x00#8 1#32)] }
     ∃ t, step s = .next t ∧ t.block.h ≠ s.block.h) ∧
    (let s := { withBlock countingBlock with pending := [.access (.busWrite 0x20#8 0#32)] }
     ∃ t, step s = .next t ∧ t.block.h ≠ s.block.h) ∧
    (let s := { withBlock countingBlock with pending := [.resetAssert] }
     ∃ t, step s = .next t ∧ t.block.h ≠ s.block.h) ∧
    (let s := { withBlock countingBlock with inReset := true, pending := [.resetDeassert] }
     ∃ t, step s = .next t ∧ t.block.h ≠ s.block.h) :=
  ⟨⟨_, rfl, by decide⟩, ⟨_, rfl, by decide⟩, ⟨_, rfl, by decide⟩, ⟨_, rfl, by decide⟩, ⟨_, rfl, by decide⟩⟩
/-- BUSY falls by the fold, by reset's assertion, by its deassertion; and rises. -/
theorem witness_BusyFallsOnlyWithTheFold :
    (∃ t, step (busyAt 80#7) = .next t ∧ (busyAt 80#7).block.busy = true ∧ t.block.busy = false) ∧
    (∃ t, step (hostTurn [.resetAssert]) = .next t ∧ busyBlock.busy = true ∧ t.block.busy = false) ∧
    (∃ t, step { hostTurn [.resetDeassert] with inReset := true } = .next t ∧ busyBlock.busy = true ∧ t.block.busy = false) ∧
    (let s := { withBlock fullBlock with pending := [.access (.busWrite 0x00#8 2#32)] }
     ∃ t, step s = .next t ∧ s.block.busy = false ∧ t.block.busy = true) :=
  ⟨⟨_, rfl, by decide⟩, ⟨_, rfl, by decide⟩, ⟨_, rfl, by decide⟩, ⟨_, rfl, by decide⟩⟩
/-- A read while idle, a command while idle, a write while busy. -/
theorem witness_StepRunsDecodedAccess :
    (let s := waiting [.access (rd 0x7C#8).toAccess]
     s.inReset = false ∧ s.engineTurn = false ∧ decode (rd 0x7C#8) = .ok .msg15R) ∧
    (let s := waiting [.access (Encoded.cmd 2#32).toAccess]
     s.inReset = false ∧ s.engineTurn = false ∧ decode (.cmd 2#32) = .ok .compress) ∧
    (let s := hostTurn [.access (wr 0x04#8 0x700#32).toAccess]
     s.inReset = false ∧ s.engineTurn = false ∧ decode (wr 0x04#8 0x700#32) = .ok (.statusW 0x700#32)) := by decide
/-- WAIT while busy (no match: it reads again), and while idle (match: it is over). -/
theorem witness_PollRepeatsUntilMatch :
    decode (.bus (.busRead 0x04#8)) = .ok .statusR ∧
    (let s := hostTurn [.poll 0x04#8 1#32 0#32]
     s.inReset = false ∧ s.engineTurn = false ∧ ∃ t, exec .statusR s.useTurn = .next t ∧ t.rdata &&& 1#32 ≠ 0#32) ∧
    (let s := waiting [.poll 0x04#8 1#32 0#32]
     s.inReset = false ∧ s.engineTurn = false ∧ ∃ t, exec .statusR s.useTurn = .next t ∧ t.rdata &&& 1#32 = 0#32) :=
  ⟨by decide, ⟨by decide, by decide, _, rfl, by decide⟩, ⟨by decide, by decide, _, rfl, by decide⟩⟩
/-- 16 and 64 bits, aligned or not, while busy and idle; 32 bits at 0x12 and at 0x01; a polling loop at 0x05, idle and busy. -/
theorem witness_NonAdmittedAccessIsRefused :
    (let s := hostTurn [.access { offset := 0x10#8, bits := 16, dir := .read }]
     s.inReset = false ∧ s.engineTurn = false ∧ 16 ≠ 32) ∧
    (let s := waiting [.access { offset := 0x12#8, bits := 64, dir := .write 0#32 }]
     s.inReset = false ∧ s.engineTurn = false ∧ 64 ≠ 32) ∧
    (let s := waiting [.access (.busRead 0x12#8)]; s.inReset = false ∧ s.engineTurn = false ∧ (0x12#8).toNat % 4 ≠ 0) ∧
    (let s := waiting [.access (.busRead 0x01#8)]; s.inReset = false ∧ s.engineTurn = false ∧ (0x01#8).toNat % 4 ≠ 0) ∧
    (let s := waiting [.poll 0x05#8 1#32 0#32]; s.inReset = false ∧ s.engineTurn = false ∧ (0x05#8).toNat % 4 ≠ 0) ∧
    (let s := hostTurn [.poll 0x05#8 1#32 0#32]; s.inReset = false ∧ s.engineTurn = false ∧ (0x05#8).toNat % 4 ≠ 0) := by decide
theorem witness_IdleBlockHoldsItsState :
    State.reset.isFinal = true ∧ (withBlock busyBlock).block.busy = true ∧
    (let s := { withBlock busyBlock with schedule := [.host] }
     s.inReset = false ∧ s.block.busy = true ∧ s.pending = []) := by decide
theorem witness_DecodeOfEncode : Instr.compress.wf = true ∧ (Instr.rsvdW 0xFC#8 0xFFFFFFFF#32).wf = true := by decide
theorem witness_EncodeOfDecode : decode (.cmd 2#32) = .ok .compress ∧ decode (rd 0x24#8) = .ok (.rsvdR 0x24#8) := by decide
theorem witness_PaddingProperties :
    ([] : List Byte).length ≤ 2 ^ 61 - 1 ∧ (List.replicate 55 0x61#8).length = 55 ∧ (List.replicate 56 0x61#8).length = 56 := by
  decide
/-- A 56-byte message fills two blocks (S5). -/
theorem test_pad_two_blocks : (pad (List.replicate 56 0x61#8)).length = 128 := by
  simp only [pad, padCount, List.length_append, List.length_replicate, bytesBe_length, List.length_cons, List.length_nil]
/-- Two blocks of message: the byte after it is the terminator, then zeros up to the trailer. -/
theorem witness_PaddingTerminatorAndZeros :
    (List.replicate 56 0x61#8).length < 57 ∧ 57 < (pad (List.replicate 56 0x61#8)).length - 8 ∧
    119 < (pad (List.replicate 56 0x61#8)).length - 8 := by
  rw [test_pad_two_blocks]
  decide
/-- One byte too many, exactly as many as allowed, a two-block message with its block 1, and idle states with and without errors. -/
theorem witness_DigestChainsBlocksOrRefuses :
    2 ^ 61 - 1 < (List.replicate (2 ^ 61) 0#8).length ∧ (List.replicate (2 ^ 61 - 1) 0#8).length ≤ 2 ^ 61 - 1 ∧
    1 < (pad (List.replicate 56 0x61#8)).length / 64 ∧
    (let s := { withBlock fullBlock with schedule := [.host] }
     s.inReset = false ∧ s.block.busy = false ∧ s.pending = [] ∧ s.block.errorFree = true) ∧
    (let s := withBlock { countingBlock with errIncomplete := true }
     s.inReset = false ∧ s.block.busy = false ∧ s.pending = []) :=
  ⟨by rw [List.length_replicate]; omega, by rw [List.length_replicate], by rw [test_pad_two_blocks]; decide, by decide, by decide⟩
theorem witness_DigestHexIsValue : 'f' ∈ digestHex (Vector.replicate 5 0xFFFFFFFF#32) := by decide +kernel
theorem witness_SavedDigestIsRestored : (withBlock { countingBlock with errCmd := true }).block.busy = false := by decide
theorem witness_ReadAfterWriteReturnsValue : (withBlock countingBlock).block.busy = false := by decide
/-- Nothing between, and an INIT, an H write, a read of MSG and a refused COMPRESS between. -/
theorem witness_BlockMustBeReloaded :
    (busyAt 80#7).inReset = false ∧ (busyAt 80#7).engineTurn = true ∧ (busyAt 80#7).block.rnd = 80#7 ∧
    ∃ t, step (busyAt 80#7) = .next t ∧ execAll [] t = .next t ∧
      (∀ i ∈ [Instr.init, .h0W 7#32, .msg0R, .compress, .statusW 0#32], ∀ (j : Fin 16) (v : Word),
        i ≠ decodeWrite (msgOffset j) v) ∧
      ∃ u, execAll [.init, .h0W 7#32, .msg0R, .compress, .statusW 0#32] t = .next u := by
  refine ⟨by decide, by decide, by decide, _, rfl, rfl, ?_, _, rfl⟩
  intro i hi j v
  fin_cases j <;> (rintro rfl; simp [decodeWrite, msgOffset] at hi)

end Sys2Proof.Tests
end

section
/-! PROOFS. Words: the bits of the rotation (spec/00_scope.md R14) and the bytes of be32 and bytes_be (R17, spec/40_host_padding.md
R106). -/

namespace Sys2Proof.Machine

/-- R14's rotation is the library's left rotation. -/
theorem rotl_eq_rotateLeft (x : Word) {n : Nat} (hn : n ≤ 31) : rotl x n = x.rotateLeft n := by
  rw [BitVec.rotateLeft_def, Nat.mod_eq_of_lt (by omega), rotl]

/-- The bits below n come from the top of the word, the others from n places down (R14). -/
theorem getLsbD_rotl (x : Word) {n k : Nat} (hn : n ≤ 31) (hk : k < 32) :
    (rotl x n).getLsbD k = x.getLsbD ((k + 32 - n) % 32) := by
  rw [rotl_eq_rotateLeft x hn, BitVec.getLsbD_rotateLeft, Nat.mod_eq_of_lt (a := n) (by omega)]
  by_cases h : k < n
  · have hidx : (k + 32 - n) % 32 = 32 - n + k := by omega
    simp [h, hidx]
  · have hidx : (k + 32 - n) % 32 = k - n := by omega
    simp [h, hidx, hk]

/-- A byte shifted up by p places is 0 outside place p, so the four terms of be32 do not overlap. -/
theorem getLsbD_byte_shiftLeft (b : Byte) (p : Nat) {j i : Nat} (hj : j < 4) (hi : i < 8) :
    (b.setWidth 32 <<< (8 * p)).getLsbD (8 * j + i) = (decide (j = p) && b.getLsbD i) := by
  have hlt : 8 * j + i < 32 := by omega
  simp only [BitVec.getLsbD_shiftLeft, BitVec.getLsbD_setWidth, hlt, decide_true, Bool.true_and]
  obtain hjp | rfl | hpj := lt_trichotomy j p
  · have hbelow : 8 * j + i < 8 * p := by omega
    simp [hbelow, hjp.ne]
  · simp [show i < 32 by omega]
  · rw [BitVec.getLsbD_of_ge b (8 * j + i - 8 * p) (by omega)]
    simp [hpj.ne']

/-- Bit i of the place j bytes above the least significant one is bit i of the byte j before the last (R17). -/
theorem getLsbD_be32 (m : List Byte) (k : Nat) {j i : Nat} (hj : j < 4) (hi : i < 8) :
    (be32 m k).getLsbD (8 * j + i) = (byteAt m (k + (3 - j))).getLsbD i := by
  have h0 := getLsbD_byte_shiftLeft (byteAt m (k + 3)) 0 hj hi
  have h1 := getLsbD_byte_shiftLeft (byteAt m (k + 2)) 1 hj hi
  have h2 := getLsbD_byte_shiftLeft (byteAt m (k + 1)) 2 hj hi
  have h3 := getLsbD_byte_shiftLeft (byteAt m k) 3 hj hi
  rw [Nat.mul_zero, BitVec.shiftLeft_zero] at h0
  rw [be32, BitVec.getLsbD_or, BitVec.getLsbD_or, BitVec.getLsbD_or, h0, h1, h2, h3]
  interval_cases j <;> simp

/-- Place j of be32, read as a byte (R17). -/
theorem extractLsb'_be32 (m : List Byte) (k : Nat) {j : Nat} (hj : j < 4) :
    (be32 m k).extractLsb' (8 * j) 8 = byteAt m (k + (3 - j)) := by
  ext i hi
  rw [← BitVec.getLsbD_eq_getElem, ← BitVec.getLsbD_eq_getElem, BitVec.getLsbD_extractLsb', getLsbD_be32 m k hj hi]
  simp [hi]

/-- Byte k of bytes_be(v, n) is the base-256 digit of v that has n - 1 - k digits below it (R17). -/
theorem byteAt_bytesBe (v n : Nat) {k : Nat} (hk : k < n) :
    byteAt (bytesBe v n) k = BitVec.ofNat 8 (v / 256 ^ (n - 1 - k)) := by
  induction n generalizing k with
  | zero => omega
  | succ n ih =>
    cases k with
    | zero => rfl
    | succ k =>
      have hexp : n + 1 - 1 - (k + 1) = n - 1 - k := by omega
      rw [hexp, ← ih (by omega)]
      rfl

/-- be32 undoes bytes_be: bit 8j + i of both is bit i of the digit 256^j (R17, R106). -/
theorem be32_bytesBe (v : Word) : be32 (bytesBe v.toNat 4) 0 = v := by
  apply BitVec.eq_of_getLsbD_eq
  intro b hb
  obtain ⟨j, i, hj, hi, rfl⟩ : ∃ j i, j < 4 ∧ i < 8 ∧ b = 8 * j + i :=
    ⟨b / 8, b % 8, by omega, by omega, by omega⟩
  have hplace : 4 - 1 - (0 + (3 - j)) = j := by omega
  rw [getLsbD_be32 _ _ hj hi, byteAt_bytesBe _ _ (by omega), hplace, BitVec.getLsbD_ofNat,
    show 256 = 2 ^ 8 from rfl, ← Nat.pow_mul, Nat.testBit_div_two_pow, BitVec.testBit_toNat]
  simp [hi, Nat.add_comm]

/-- Settles O31: the rotation is the library's, whose bits wrap at 32. -/
theorem rotationMovesBits : Obligations.RotationMovesBits :=
  fun x _ _ _ hn hk => getLsbD_rotl x hn hk

/-- Settles O55: the four places of be32 one by one, its inverse, and the example of R106. -/
theorem wordsAreBigEndian : Obligations.WordsAreBigEndian := by
  refine ⟨fun m k => ⟨?_, ?_, ?_, ?_⟩, be32_bytesBe, by decide⟩
  · exact extractLsb'_be32 m k (j := 3) (by decide)
  · exact extractLsb'_be32 m k (j := 2) (by decide)
  · exact extractLsb'_be32 m k (j := 1) (by decide)
  · exact extractLsb'_be32 m k (j := 0) (by decide)

end Sys2Proof.Machine
end

section
/-! PROOFS. Commands and accesses: an instruction's encoded form gives back the access that performs it (spec/30_encoding.md R80 to
R82, R85). -/

namespace Sys2Proof.Machine

/-- With RSVD = 0 a command word is its OP (R80). -/
theorem eq_setWidth_of_fields {v : Word} {op : BitVec 4} (hr : rsvdField v = 0#28) (ho : opField v = op) :
    v = op.setWidth 32 := by
  have hr' := congrArg BitVec.toNat hr
  have ho' := congrArg BitVec.toNat ho
  simp only [rsvdField, opField, BitVec.extractLsb_toNat, BitVec.toNat_ofNat, Nat.shiftRight_eq_div_pow] at hr' ho'
  have hv := v.isLt
  apply BitVec.eq_of_toNat_eq
  rw [BitVec.toNat_setWidth]
  omega

/-- "The exact 32-bit word is the only spelling of each" command (R82). -/
theorem encode_of_decodeCommand {v : Word} {i : Instr} (h : decodeCommand v = .ok i) : encode i = .cmd v := by
  unfold decodeCommand at h
  split_ifs at h with hr hnop hinit hcompress
  · injection h with h
    rw [← h, eq_setWidth_of_fields (not_not.mp hr) hnop]; rfl
  · injection h with h
    rw [← h, eq_setWidth_of_fields (not_not.mp hr) hinit]; rfl
  · injection h with h
    rw [← h, eq_setWidth_of_fields (not_not.mp hr) hcompress]; rfl

/-- The encoded form of an access's instruction is delivered by that access (R81, R85). -/
theorem toAccess_encode_of_accessInstr {a : Access} {i : Instr} (h : accessInstr a = .ok i) : (encode i).toAccess = a := by
  obtain ⟨o, rfl, rfl⟩ | ⟨o, v, rfl, rfl⟩ | ⟨v, rfl, hv⟩ := accessInstr_ok h
  · rw [encode_decodeRead]; rfl
  · rw [encode_decodeWrite]; rfl
  · rw [encode_of_decodeCommand hv]; rfl

end Sys2Proof.Machine
end

section
/-! PROOFS. The window and the schedule: the recurrence of spec/42_schedule_expander.md R171, and that the sixteen slots always hold
the latest sixteen schedule words, w[r] in slot r mod 16 (R172 to R174). -/

namespace Sys2Proof.Machine

/-- An expansion long enough to hold w[t] holds it at place t. -/
theorem expand_getD (m : Vector Word 16) {n t : Nat} (h : t < 16 + n) : (expand m n).getD t 0#32 = scheduleWord m t := by
  obtain ⟨k, rfl⟩ : ∃ k, n = t - 15 + k := ⟨n - (t - 15), by omega⟩
  exact expand_add_getD m (t - 15) k t (by omega)

/-- The first sixteen schedule words are the block (R171). -/
theorem scheduleWord_of_lt (m : Vector Word 16) {t : Nat} (h : t < 16) : scheduleWord m t = m[t] := by
  rw [← expand_getD m (n := 0) h, expand_zero]
  simp [List.getD, h]

/-- The recurrence of the schedule (R171). -/
theorem scheduleWord_recurrence (m : Vector Word 16) {t : Nat} (h : 16 ≤ t) :
    scheduleWord m t = rotl (scheduleWord m (t - 3) ^^^ scheduleWord m (t - 8) ^^^ scheduleWord m (t - 14)
      ^^^ scheduleWord m (t - 16)) 1 := by
  obtain ⟨n, rfl⟩ : ∃ n, t = 16 + n := ⟨t - 16, by omega⟩
  have hnew : scheduleWord m (16 + n) = nextScheduleWord (expand m n) := by
    rw [← expand_getD m (n := n + 1) (by omega), expand_succ]
    simp [List.getD]
  rw [hnew, nextScheduleWord, expand_length]
  simp only [expand_getD m (n := n) (show 16 + n - 3 < 16 + n by omega),
    expand_getD m (n := n) (show 16 + n - 8 < 16 + n by omega),
    expand_getD m (n := n) (show 16 + n - 14 < 16 + n by omega),
    expand_getD m (n := n) (show 16 + n - 16 < 16 + n by omega)]

/-- After n rounds slot r mod 16 holds w[r], for each of the sixteen latest r (R174). -/
theorem windowAfter_getElem (m : Vector Word 16) {n r : Nat} (hlt : r < max n 16) (hge : max n 16 ≤ r + 16) :
    (windowAfter m n)[r % 16] = scheduleWord m r := by
  induction n generalizing r with
  | zero =>
    have hr : r < 16 := by omega
    simp only [windowAfter_zero, Nat.mod_eq_of_lt hr, scheduleWord_of_lt m hr]
  | succ n ih =>
    rw [windowAfter_succ, windowForRound]
    split
    case isFalse hn => exact ih (by omega) (by omega)
    case isTrue hn =>
      rw [updateWindow, Vector.getElem_set]
      split
      case isFalse hne =>
        have hr : r ≠ n := fun h => hne (by rw [h])
        exact ih (by omega) (by omega)
      case isTrue heq =>
        obtain rfl : r = n := by omega
        have hwrap : r % 16 = (r - 16) % 16 := by omega
        simp only [hwrap]
        rw [scheduleWord_recurrence m hn, ih (r := r - 3) (by omega) (by omega), ih (r := r - 8) (by omega) (by omega),
          ih (r := r - 14) (by omega) (by omega), ih (r := r - 16) (by omega) (by omega)]

/-- The slot that round n uses holds w[n] (R175, R196). -/
theorem windowForRound_getElem (m : Vector Word 16) (n : Nat) :
    (windowForRound (windowAfter m n) n)[n % 16] = scheduleWord m n := by
  rw [← windowAfter_getElem m (n := n + 1) (by omega) (by omega)]
  rfl

end Sys2Proof.Machine
end

section
/-! PROOFS. What one instruction does to the block: it answers a next state, and either leaves everything but the error bits or
is a guarded write whose effect happens while idle (spec/60_exceptions.md R223, R226). -/

namespace Sys2Proof.Machine

variable {i : Instr} {f : Block → Block} {b c : Block} {s t : State}

/-- The two blocks agree in everything but the three error bits. -/
def Block.AgreesButErrors (b c : Block) : Prop :=
  c = { b with errCmd := c.errCmd, errBusy := c.errBusy, errIncomplete := c.errIncomplete }

theorem Block.AgreesButErrors.refl (b : Block) : b.AgreesButErrors b := rfl

theorem Block.raise_agreesButErrors (b : Block) (e : IfaceError) : b.AgreesButErrors (b.raise e) := by cases e <;> rfl

theorem Block.clearErrors_agreesButErrors (b : Block) (v : Word) : b.AgreesButErrors (b.clearErrors v) := rfl

theorem Block.AgreesButErrors.h_eq (hc : b.AgreesButErrors c) : c.h = b.h := by rw [hc]

/-- Every instruction answers a next state. -/
theorem exec_answers_next (i : Instr) (s : State) : ∃ t, exec i s = .next t := by
  obtain ⟨-, v, d, h, -⟩ | ⟨-, f, -, h⟩ | ⟨v, -, h⟩ | ⟨off, v, -, h⟩ := exec_cases i s <;> exact ⟨_, h⟩

/-- An instruction changes only error bits, or, while idle, has its row's effect. -/
theorem exec_block_cases (h : exec i s = .next t) :
    s.block.AgreesButErrors t.block ∨ (s.block.busy = false ∧ ∃ f, IdleWrite i f ∧ t.block = f s.block) := by
  obtain ⟨-, v, d, hx, -⟩ | ⟨-, f, hf, hx⟩ | ⟨v, -, hx⟩ | ⟨off, v, -, hx⟩ := exec_cases i s <;>
    (rw [hx] at h; injection h with h; subst h)
  case inl => exact .inl (.refl _)
  case inr.inl =>
    cases hb : s.block.busy with
    | true => exact .inl (by simpa only [Block.whenIdle_busy f hb] using s.block.raise_agreesButErrors .busy)
    | false => exact .inr ⟨rfl, f, hf, Block.whenIdle_idle f hb⟩
  case inr.inr.inl => exact .inl (s.block.clearErrors_agreesButErrors v)
  case inr.inr.inr => exact .inl (.refl _)

/-- Settles O42: while busy the second case of exec_block_cases cannot happen. -/
theorem busyAccessChangesOnlyErrorBits : Obligations.BusyAccessChangesOnlyErrorBits := by
  intro i s t hb h
  obtain hagree | ⟨hidle, -⟩ := exec_block_cases h
  · exact hagree
  · rw [hb] at hidle
    cases hidle

end Sys2Proof.Machine
end

section
/-! PROOFS. When H changes (spec/10_state.md R22). -/

namespace Sys2Proof.Machine

variable {i : Instr} {f : Block → Block} {b : Block} {s t : State}

/-- COMPRESS's write leaves H alone, accepted or not (R135, R224). -/
theorem Block.compressCommand_h (b : Block) : b.compressCommand.h = b.h := by
  obtain ⟨-, h⟩ | ⟨-, h⟩ := b.compressCommand_cases <;> simp [h]

/-- A command word that changes H is INIT's. -/
theorem Block.decodeCommand_of_command_h_ne {v : Word} (hne : (b.command v).h ≠ b.h) : decodeCommand v = .ok .init := by
  obtain ⟨-, h⟩ | ⟨hv, -⟩ | ⟨-, h⟩ | ⟨-, h⟩ := b.command_cases v
  · exact absurd (congrArg Block.h h) hne
  · exact hv
  · exact absurd (by rw [h, b.compressCommand_h]) hne
  · exact absurd (by rw [h, b.raise_h]) hne

/-- A guarded write that changes H is delivered as the write of INIT's word or as a write at an H offset (R133, R138). -/
theorem IdleWrite.toAccess_of_h_ne (hf : IdleWrite i f) (hne : (f b).h ≠ b.h) :
    (encode i).toAccess = .busWrite 0x00#8 0x00000001#32 ∨
      ∃ (j : Fin 5) (v : Word), (encode i).toAccess = .busWrite (hOffset j) v := by
  cases hf with
  | nop => exact absurd rfl hne
  | init => exact .inl rfl
  | compress => exact absurd b.compressCommand_h hne
  | command v =>
    have hv := encode_of_decodeCommand (Block.decodeCommand_of_command_h_ne hne)
    simp only [encode, Encoded.cmd.injEq] at hv
    exact .inl (by rw [← hv]; rfl)
  | digest j v => exact .inr ⟨j, v, by rw [encode_decodeWrite]; rfl⟩
  | window j v => exact absurd rfl hne

/-- An access whose instruction changes H finds the block idle and is INIT's CMD write or a write at an H offset. -/
theorem access_of_exec_h_ne {a : Access} (hi : accessInstr a = .ok i) (h : exec i s = .next t) (hne : t.block.h ≠ s.block.h) :
    s.block.busy = false ∧
      (a = .busWrite 0x00#8 0x00000001#32 ∨ ∃ (j : Fin 5) (v : Word), a = .busWrite (hOffset j) v) := by
  obtain hagree | ⟨hidle, f, hf, ht⟩ := exec_block_cases h
  · exact absurd hagree.h_eq hne
  · rw [ht] at hne
    rw [← toAccess_encode_of_accessInstr hi]
    exact ⟨hidle, hf.toAccess_of_h_ne hne⟩

/-- Settles O43, along the cases of a step: a round keeps H, and an access changes it only as access_of_exec_h_ne says. -/
theorem digestChangesOnlyByRule : Obligations.DigestChangesOnlyByRule := by
  intro s t h hne
  obtain hsame | ⟨hr, he, hp, -⟩ | ⟨hr, hp, -⟩ | ⟨-, -, -, hround⟩ | ⟨hr, he, hrnd, -⟩ |
    ⟨a, rest, i, s', u, hr, -, hp, hs', hi, hx, ht⟩ | ⟨off, mask, val, rest, i, s', u, -, -, -, hs', hi, hx, ht⟩ :=
    step_block_cases h
  · exact absurd (congrArg Block.h hsame) hne
  · exact .inr (.inr (.inr (.inl ⟨hr, he, hp⟩)))
  · exact .inr (.inr (.inr (.inr ⟨hr, hp⟩)))
  · exact absurd (congrArg Block.h hround) hne
  · exact .inl ⟨hr, he, hrnd⟩
  · rw [ht, ← hs'] at hne
    obtain ⟨hb, rfl | ⟨j, v, rfl⟩⟩ := access_of_exec_h_ne hi hx hne
    · exact .inr (.inl ⟨hr, hs' ▸ hb, rest, hp⟩)
    · exact .inr (.inr (.inl ⟨hr, hs' ▸ hb, j, v, rest, hp⟩))
  · rw [ht, ← hs'] at hne
    obtain ⟨-, ha | ⟨j, v, ha⟩⟩ := access_of_exec_h_ne hi hx hne <;> simp [Access.busRead, Access.busWrite] at ha

end Sys2Proof.Machine
end

section
/-! PROOFS. The block's invariant holds at reset, every operation keeps it, and under it the engine is never stuck (spec/10_state.md
R26, R32). -/

namespace Sys2Proof.Machine

variable {i : Instr} {f : Block → Block} {b c : Block} {s t : State}

/-- An idle block meets the invariant when RND is in its range. -/
theorem Block.Inv.of_idle (hrnd : b.rnd.toNat ≤ 80) (hb : b.busy = false) : b.Inv :=
  ⟨hrnd, fun h => by rw [hb] at h; cases h⟩

theorem Block.Inv.rnd_le (hb : b.Inv) : b.rnd.toNat ≤ 80 := hb.1

/-- The invariant says nothing of the error bits. -/
theorem Block.AgreesButErrors.inv (hc : b.AgreesButErrors c) (hb : b.Inv) : c.Inv := by
  rw [hc]
  exact hb

theorem Block.reset_inv : Block.reset.Inv := .of_idle (by decide) rfl

/-- An accepted COMPRESS is zero rounds into the schedule of its own block (R134, R135). -/
theorem Block.start_inv (hv : b.mvalid = mvalidFull) : b.start.Inv :=
  ⟨by simp, fun _ => ⟨hv, b.msg, rfl, rfl⟩⟩

theorem Block.compressCommand_inv (hb : b.Inv) : b.compressCommand.Inv := by
  obtain ⟨hv, h⟩ | ⟨-, h⟩ := b.compressCommand_cases
  · exact h ▸ Block.start_inv hv
  · exact h ▸ (b.raise_agreesButErrors .incomplete).inv hb

/-- Each guarded write keeps the invariant while idle. -/
theorem IdleWrite.inv (hf : IdleWrite i f) (hidle : b.busy = false) (hb : b.Inv) : (f b).Inv := by
  have hinit : b.init.Inv := .of_idle hb.rnd_le hidle
  cases hf with
  | nop => exact hb
  | init => exact hinit
  | compress => exact Block.compressCommand_inv hb
  | command v =>
    obtain ⟨-, h⟩ | ⟨-, h⟩ | ⟨-, h⟩ | ⟨-, h⟩ := b.command_cases v
    · simpa only [h] using hb
    · simpa only [h] using hinit
    · simpa only [h] using Block.compressCommand_inv hb
    · simpa only [h] using (b.raise_agreesButErrors .cmd).inv hb
  | digest j v => exact .of_idle hb.rnd_le hidle
  | window j v => exact .of_idle hb.rnd_le hidle

/-- An instruction keeps the invariant. -/
theorem exec_inv (h : exec i s = .next t) (hs : s.block.Inv) : t.block.Inv := by
  obtain hagree | ⟨hidle, f, hf, ht⟩ := exec_block_cases h
  · exact hagree.inv hs
  · exact ht ▸ hf.inv hidle hs

/-- Round RND takes RND rounds over a block's schedule to one more: its slot holds w[RND] (R174, R196). -/
theorem Block.engineRound_inv (hbusy : b.busy = true) (hlt : b.rnd.toNat ≤ 79) (hb : b.Inv) : b.engineRound.Inv := by
  obtain ⟨-, hrounds⟩ := hb
  obtain ⟨hv, m, hmsg, hwork⟩ := hrounds hbusy
  have hrnd : b.engineRound.rnd.toNat = b.rnd.toNat + 1 := by
    rw [Block.engineRound_rnd, BitVec.toNat_add, BitVec.toNat_ofNat]
    omega
  refine ⟨by omega, fun _ => ⟨hv, m, ?_, ?_⟩⟩
  · rw [hrnd, windowAfter_succ, ← hmsg, Block.engineRound_msg]
  · rw [hrnd, rounds_succ, Block.engineRound_work, Block.engineRound_h, ← hwork]
    simp only [hmsg, windowForRound_getElem]

theorem Block.fold_inv (hb : b.Inv) : b.fold.Inv := .of_idle hb.rnd_le rfl

/-- Settles O38, along the cases of a step, with one lemma for each thing a step can do to the block. -/
theorem stepKeepsBlockInvariant : Obligations.StepKeepsBlockInvariant := by
  intro s t hs h
  unfold State.Inv at *
  obtain hsame | ⟨-, -, -, hreset⟩ | ⟨-, -, hreset⟩ | ⟨-, he, hlt, hround⟩ | ⟨-, -, -, hfold⟩ |
    ⟨a, rest, i, s', u, -, -, -, hs', -, hx, ht⟩ | ⟨off, mask, val, rest, i, s', u, -, -, -, hs', -, hx, ht⟩ :=
    step_block_cases h
  · exact hsame ▸ hs
  · exact hreset ▸ Block.reset_inv
  · exact hreset ▸ Block.reset_inv
  · exact hround ▸ Block.engineRound_inv (busy_of_engineTurn he) hlt hs
  · exact hfold ▸ Block.fold_inv hs
  · exact ht ▸ exec_inv hx (hs' ▸ hs)
  · exact ht ▸ exec_inv hx (hs' ▸ hs)

/-- The engine is stuck only past RND = 80 (R26). -/
theorem engineStep_ne_fault (hs : s.block.Inv) (r : Fault) : engineStep s ≠ .fault r := by
  obtain ⟨-, h⟩ | ⟨-, h⟩ | ⟨hgt, -⟩ := engineStep_cases (s := s)
  · simp [h]
  · simp [h]
  · have hle := hs.rnd_le
    omega

/-- Continuing after an instruction is no fault, since the instruction answers next. -/
theorem andThen_exec_ne_fault (i : Instr) (s : State) (g : State → State) (r : Fault) : andThen (exec i s) g ≠ .fault r := by
  obtain ⟨t, h⟩ := exec_answers_next i s
  simp [h, andThen]

/-- The host's step answers next or is refused. -/
theorem hostStep_ne_fault (s : State) (r : Fault) : hostStep s ≠ .fault r := by
  unfold hostStep
  split
  case h_2 a rest _ =>
    unfold runAccess
    split
    · exact andThen_exec_ne_fault _ _ _ r
    · simp
  case h_3 off mask val rest _ =>
    unfold runPoll
    split
    · exact andThen_exec_ne_fault _ _ _ r
    · simp
  all_goals simp

/-- A reset event answers next, and in reset an access is refused (R250). -/
theorem resetStep_ne_fault (s : State) (r : Fault) : resetStep s ≠ .fault r := by
  unfold resetStep
  split <;> simp

/-- Settles O39: only an engine step past RND = 80 could fault. -/
theorem noFaultUnderInvariant : Obligations.NoFaultUnderInvariant := by
  intro s r hs
  unfold step
  split_ifs
  · exact resetStep_ne_fault s r
  · exact engineStep_ne_fault (by rw [State.useTurn_block]; exact hs) r
  · exact hostStep_ne_fault _ r

/-- Settles O37: reset is idle with RND = 0. -/
theorem resetMeetsBlockInvariant : Obligations.ResetMeetsBlockInvariant := Block.reset_inv

/-- Settles O1: each register of Block.reset read off its definition, the window's slots by the library's replicate lemma. -/
theorem resetValueOfEveryRegister : Obligations.ResetValueOfEveryRegister :=
  ⟨rfl, fun j => Vector.getElem_replicate j.isLt, rfl, rfl, rfl, rfl, rfl, rfl, rfl, rfl, rfl, rfl, rfl⟩

end Sys2Proof.Machine
end

section
/-! PROOFS. The port: which row an admitted access decodes to, which accesses are refused by name, and what a step does at the
engine's and at the host's turn (spec/20_memory.md R52 to R54, R58; spec/30_encoding.md R81, R85). -/

namespace Sys2Proof.Machine

variable {a : Access} {e : DecodeError} {i : Instr} {o : Offset} {b : Block} {f g : Block → Block} {s : State}
  {rest : List HostItem}

theorem isAligned_iff : isAligned o = true ↔ o.toNat % 4 = 0 := by simp [isAligned]

/-- An admitted read decodes to the read row of its offset (R54, R85). -/
theorem decode_busRead (ho : isAligned o = true) : decode (.bus (.busRead o)) = .ok (decodeRead o) := by
  simp [decode, decodeAccess, Access.busRead, ho]

/-- An admitted write decodes to the write row of its offset (R54, R85). -/
theorem decode_busWrite (ho : isAligned o = true) (v : Word) : decode (.bus (.busWrite o v)) = .ok (decodeWrite o v) := by
  simp [decode, decodeAccess, Access.busWrite, ho]

/-- The reserved slots as numbers (R52). -/
theorem isReserved_iff : isReserved o = true ↔
    o.toNat % 4 = 0 ∧ (o = 0x08#8 ∨ o = 0x0C#8 ∨ (0x24 ≤ o.toNat ∧ o.toNat ≤ 0x3C) ∨ 0x80 ≤ o.toNat) := by
  simp [isReserved, isAligned, or_assoc]

/-- No reserved slot is the offset of a named row (R52). -/
theorem toNat_of_isReserved (ho : isReserved o = true) :
    o.toNat = 0x08 ∨ o.toNat = 0x0C ∨ (0x24 ≤ o.toNat ∧ o.toNat ≤ 0x3C) ∨ 0x80 ≤ o.toNat := by
  obtain ⟨-, rfl | rfl | hmid | htop⟩ := isReserved_iff.mp ho
  · exact .inl rfl
  · exact .inr (.inl rfl)
  · exact .inr (.inr (.inl hmid))
  · exact .inr (.inr (.inr htop))

theorem decodeRead_of_isReserved (ho : isReserved o = true) : decodeRead o = .rsvdR o := by
  have hslot := toNat_of_isReserved ho
  unfold decodeRead
  split
  case h_24 => rfl
  all_goals omega

theorem decodeWrite_of_isReserved (ho : isReserved o = true) (v : Word) : decodeWrite o v = .rsvdW o v := by
  have hslot := toNat_of_isReserved ho
  unfold decodeWrite
  split
  case h_24 => rfl
  all_goals omega

/-- Settles O19: a reserved slot is aligned and has no named row, so it decodes to the reserved one. -/
theorem reservedOffsetsReadZeroIgnoreWrites : Obligations.ReservedOffsetsReadZeroIgnoreWrites := by
  intro o hmod hslot v s
  have hal : isAligned o = true := isAligned_iff.mpr hmod
  have hres : isReserved o = true := isReserved_iff.mpr ⟨hmod, hslot⟩
  refine ⟨?_, rfl, ?_, rfl⟩
  · rw [decode_busRead hal, decodeRead_of_isReserved hres]
  · rw [decode_busWrite hal, decodeWrite_of_isReserved hres]

/-- Settles O26, along the list of turns. -/
theorem stepRunsEngineOnItsTurn : Obligations.StepRunsEngineOnItsTurn := by
  refine ⟨fun s => ?_, fun s hr he => ?_⟩
  · cases hq : s.schedule with
    | nil => simp [State.engineTurn, hq]
    | cons agent l => cases agent <;> simp [State.engineTurn, hq]
  · simp [step, State.useTurn, hr, he, busy_of_engineTurn he]

/-- Out of reset and at the host's turn, the step is the host's, with one turn used while busy (R58). -/
theorem step_hostTurn (hr : s.inReset = false) (he : s.engineTurn = false) : step s = hostStep s.useTurn := by
  simp [step, hr, he]

/-- At the host's turn a first pending access is taken off the list and run. -/
theorem step_access (hr : s.inReset = false) (he : s.engineTurn = false) (hp : s.pending = .access a :: rest) :
    step s = runAccess a { s.useTurn with pending := rest } := by
  simp only [step_hostTurn hr he, hostStep, State.useTurn_pending, hp]

/-- At the host's turn a first pending polling loop makes one read. -/
theorem step_poll {mask val : Word} (hr : s.inReset = false) (he : s.engineTurn = false)
    (hp : s.pending = .poll o mask val :: rest) : step s = runPoll o mask val rest s.useTurn := by
  simp only [step_hostTurn hr he, hostStep, State.useTurn_pending, hp]

/-- An access that decodes to no row performs no instruction. -/
theorem accessInstr_of_decodeAccess_error (h : decodeAccess a = .error e) : accessInstr a = .error e := by
  simp only [accessInstr, h]

/-- A width other than 32 bits has no row (R54). -/
theorem accessInstr_of_width (h : a.bits ≠ 32) : accessInstr a = .error (.accessWidth a.bits) :=
  accessInstr_of_decodeAccess_error (by simp [decodeAccess, h])

/-- An offset that is not a multiple of 4 has no row (R54). -/
theorem accessInstr_of_misaligned (hb : a.bits = 32) (ho : a.offset.toNat % 4 ≠ 0) :
    accessInstr a = .error (.misaligned a.offset) :=
  accessInstr_of_decodeAccess_error (by simp [decodeAccess, isAligned, hb, ho])

/-- Settles O47: an access with no row is refused under its decoding error's name. -/
theorem nonAdmittedAccessIsRefused : Obligations.NonAdmittedAccessIsRefused := by
  refine ⟨fun s a rest hr he hp => ⟨fun hw => ?_, fun hb ho => ?_⟩, fun s o mask val rest hr he hp ho => ?_⟩
  · simp only [step_access hr he hp, runAccess, accessInstr_of_width hw, refusalOf]
  · simp only [step_access hr he hp, runAccess, accessInstr_of_misaligned hb ho, refusalOf]
  · have hi : accessInstr (.busRead o) = .error (.misaligned o) := accessInstr_of_misaligned rfl ho
    simp only [step_poll hr he hp, runPoll, hi, refusalOf]

/-- A guarded write depends only on what its effect does to this block. -/
theorem Block.whenIdle_congr (h : f b = g b) : b.whenIdle f = b.whenIdle g := by
  simp only [Block.whenIdle, h]

/-- A command has the effect of the CMD write of its word (R81). -/
theorem exec_of_decodeCommand {v : Word} (h : decodeCommand v = .ok i) (s : State) : exec i s = exec (.cmdW v) s := by
  have same (f : Block → Block) (hf : f s.block = s.block.command v) :
      onBlock (fun b => b.whenIdle f) s = exec (.cmdW v) s := by
    have hwrite := Block.whenIdle_congr (g := fun b => b.command v) hf
    simp only [exec, execCmdW, onBlock, hwrite]
  obtain ⟨hv, hc⟩ | ⟨hv, hc⟩ | ⟨hv, hc⟩ | ⟨hv, -⟩ := s.block.command_cases v <;> (rw [hv] at h; cases h)
  · exact same id hc.symm
  · exact same Block.init hc.symm
  · exact same Block.compressCommand hc.symm

/-- The access that delivers a decoded form performs an instruction of the same effect: the form's own, or, for a CMD write of a
command word, that command (R81). -/
theorem accessInstr_toAccess {x : Encoded} (h : decode x = .ok i) :
    ∃ j, accessInstr x.toAccess = .ok j ∧ ∀ s, exec j s = exec i s := by
  cases x with
  | cmd w =>
    have hw : decodeAccess (.busWrite 0x00#8 w) = .ok (.cmdW w) := rfl
    have hc : decodeCommand w = .ok i := h
    exact ⟨i, by simp only [Encoded.toAccess, accessInstr, hw, hc], fun _ => rfl⟩
  | bus a =>
    have ha : decodeAccess a = .ok i := h
    simp only [Encoded.toAccess, accessInstr, ha]
    split
    case h_1 v hi =>
      injection hi with hi
      subst hi
      split
      case h_1 c hc => exact ⟨c, rfl, exec_of_decodeCommand hc⟩
      case h_2 => exact ⟨_, rfl, fun _ => rfl⟩
    case h_2 => exact ⟨i, rfl, fun _ => rfl⟩

/-- Settles O45: the step runs the delivering access, whose instruction has the decoded one's effect. -/
theorem stepRunsDecodedAccess : Obligations.StepRunsDecodedAccess := by
  intro s x i rest hr he hx hp
  obtain ⟨j, hj, hexec⟩ := accessInstr_toAccess hx
  simp only [step_access hr he hp, runAccess, hj, hexec]

end Sys2Proof.Machine
end

section
/-! PROOFS. Reads: what each read row answers, and that reading again answers the same, except MSG while busy (spec/20_memory.md R55,
spec/70_reset_and_hazards.md R255). -/

namespace Sys2Proof.Machine

variable {i : Instr} {s : State}

/-- A read row is a read of MSG[j], or answers one word in every state that holds this block (R55, R139). -/
theorem exec_read_cases (hi : isRead i = true) (b : Block) :
    (∃ j, i = decodeRead (msgOffset j) ∧ ∀ s, exec i s = readWindow j s) ∨
      ∃ v, ∀ s : State, s.block = b → exec i s = .next { s with rdata := v } := by
  have word {i : Instr} (w : Block → Word) (h : ∀ s, exec i s = respond (w s.block) s) :
      ∃ v, ∀ s : State, s.block = b → exec i s = .next { s with rdata := v } :=
    ⟨w b, fun s hs => hs ▸ h s⟩
  cases i with
  | cmdR => exact .inr (word (fun _ => 0#32) fun _ => rfl)
  | statusR => exact .inr (word Block.status fun _ => rfl)
  | h0R => exact .inr (word (·.h[0]) fun _ => rfl)
  | h1R => exact .inr (word (·.h[1]) fun _ => rfl)
  | h2R => exact .inr (word (·.h[2]) fun _ => rfl)
  | h3R => exact .inr (word (·.h[3]) fun _ => rfl)
  | h4R => exact .inr (word (·.h[4]) fun _ => rfl)
  | rsvdR => exact .inr (word (fun _ => 0#32) fun _ => rfl)
  | msg0R => exact .inl ⟨0, rfl, fun _ => rfl⟩
  | msg1R => exact .inl ⟨1, rfl, fun _ => rfl⟩
  | msg2R => exact .inl ⟨2, rfl, fun _ => rfl⟩
  | msg3R => exact .inl ⟨3, rfl, fun _ => rfl⟩
  | msg4R => exact .inl ⟨4, rfl, fun _ => rfl⟩
  | msg5R => exact .inl ⟨5, rfl, fun _ => rfl⟩
  | msg6R => exact .inl ⟨6, rfl, fun _ => rfl⟩
  | msg7R => exact .inl ⟨7, rfl, fun _ => rfl⟩
  | msg8R => exact .inl ⟨8, rfl, fun _ => rfl⟩
  | msg9R => exact .inl ⟨9, rfl, fun _ => rfl⟩
  | msg10R => exact .inl ⟨10, rfl, fun _ => rfl⟩
  | msg11R => exact .inl ⟨11, rfl, fun _ => rfl⟩
  | msg12R => exact .inl ⟨12, rfl, fun _ => rfl⟩
  | msg13R => exact .inl ⟨13, rfl, fun _ => rfl⟩
  | msg14R => exact .inl ⟨14, rfl, fun _ => rfl⟩
  | msg15R => exact .inl ⟨15, rfl, fun _ => rfl⟩
  | _ => cases hi

/-- While idle a window read answers the slot (R139). -/
theorem readWindow_idle (j : Fin 16) (hb : s.block.busy = false) :
    readWindow j s = .next { s with rdata := s.block.msg[j] } := by
  simp [readWindow, respond, hb]

/-- Settles O20: a window read while idle, a window read while busy (of which only the frame is claimed), any other read. -/
theorem readsHaveNoSideEffects : Obligations.ReadsHaveNoSideEffects := by
  intro i s hi
  obtain ⟨j, hj, hexec⟩ | ⟨v, hv⟩ := exec_read_cases hi s.block
  · obtain ⟨hb, hread⟩ | ⟨hb, hread⟩ := readWindow_cases (s := s) j
    · exact ⟨_, (hexec s).trans hread, rfl, fun _ => ⟨rfl, (hexec _).trans (readWindow_idle j hb)⟩⟩
    · refine ⟨_, (hexec s).trans hread, rfl, fun hrepeat => ?_⟩
      obtain hne | hidle := hrepeat
      · exact absurd hj (hne j)
      · rw [hb] at hidle
        cases hidle
  · exact ⟨_, hv s rfl, rfl, fun _ => ⟨rfl, hv _ rfl⟩⟩

end Sys2Proof.Machine
end

section
/-! PROOFS. When BUSY changes (spec/20_memory.md R59, spec/10_state.md R27). -/

namespace Sys2Proof.Machine

variable {i : Instr} {f : Block → Block} {b c : Block} {s t : State}

theorem Block.AgreesButErrors.busy_eq (hc : b.AgreesButErrors c) : c.busy = b.busy := by rw [hc]

/-- COMPRESS's write changes BUSY only when accepted (R134). -/
theorem Block.mvalid_of_compressCommand_busy_ne (hne : b.compressCommand.busy ≠ b.busy) : b.mvalid = mvalidFull := by
  obtain ⟨hv, -⟩ | ⟨-, h⟩ := b.compressCommand_cases
  · exact hv
  · exact absurd (by rw [h, b.raise_busy]) hne

/-- A command word that changes BUSY is COMPRESS's, accepted. -/
theorem Block.decodeCommand_of_command_busy_ne {v : Word} (hne : (b.command v).busy ≠ b.busy) :
    decodeCommand v = .ok .compress ∧ b.mvalid = mvalidFull := by
  obtain ⟨-, h⟩ | ⟨-, h⟩ | ⟨hv, h⟩ | ⟨-, h⟩ := b.command_cases v
  · exact absurd (congrArg Block.busy h) hne
  · exact absurd (congrArg Block.busy h) hne
  · exact ⟨hv, Block.mvalid_of_compressCommand_busy_ne (h ▸ hne)⟩
  · exact absurd (by rw [h, b.raise_busy]) hne

/-- A guarded write that changes BUSY finds the window full and is delivered as the write of COMPRESS's word (R134). -/
theorem IdleWrite.toAccess_of_busy_ne (hf : IdleWrite i f) (hne : (f b).busy ≠ b.busy) :
    b.mvalid = mvalidFull ∧ (encode i).toAccess = .busWrite 0x00#8 0x00000002#32 := by
  cases hf with
  | nop => exact absurd rfl hne
  | init => exact absurd rfl hne
  | compress => exact ⟨Block.mvalid_of_compressCommand_busy_ne hne, rfl⟩
  | command v =>
    obtain ⟨hv, hfull⟩ := Block.decodeCommand_of_command_busy_ne hne
    have hw := encode_of_decodeCommand hv
    simp only [encode, Encoded.cmd.injEq] at hw
    exact ⟨hfull, by rw [← hw]; rfl⟩
  | digest j v => exact absurd rfl hne
  | window j v => exact absurd rfl hne

/-- An access whose instruction changes BUSY finds the block idle and its window full, and is COMPRESS's CMD write. -/
theorem access_of_exec_busy_ne {a : Access} (hi : accessInstr a = .ok i) (h : exec i s = .next t)
    (hne : t.block.busy ≠ s.block.busy) :
    s.block.busy = false ∧ s.block.mvalid = mvalidFull ∧ a = .busWrite 0x00#8 0x00000002#32 := by
  obtain hagree | ⟨hidle, f, hf, ht⟩ := exec_block_cases h
  · exact absurd hagree.busy_eq hne
  · rw [ht] at hne
    rw [← toAccess_encode_of_accessInstr hi]
    exact ⟨hidle, hf.toAccess_of_busy_ne hne⟩

/-- The steps that change BUSY: the fold, a reset load, and the write of an accepted COMPRESS. -/
theorem step_busy_ne (h : step s = .next t) (hne : t.block.busy ≠ s.block.busy) :
    (s.inReset = false ∧ s.engineTurn = true ∧ s.block.rnd = 80#7 ∧ t.block = s.block.fold) ∨
      (t.block = Block.reset ∧
        ((s.inReset = false ∧ s.engineTurn = false ∧ ∃ rest, s.pending = .resetAssert :: rest) ∨
          (s.inReset = true ∧ ∃ rest, s.pending = .resetDeassert :: rest))) ∨
      (s.block.busy = false ∧ s.inReset = false ∧ s.block.mvalid = mvalidFull ∧
        ∃ rest, s.pending = .access (.busWrite 0x00#8 0x00000002#32) :: rest) := by
  obtain hsame | ⟨hr, he, hp, hreset⟩ | ⟨hr, hp, hreset⟩ | ⟨-, -, -, hround⟩ | hfold |
    ⟨a, rest, i, s', u, hr, -, hp, hs', hi, hx, ht⟩ | ⟨off, mask, val, rest, i, s', u, -, -, -, hs', hi, hx, ht⟩ :=
    step_block_cases h
  · exact absurd (congrArg Block.busy hsame) hne
  · exact .inr (.inl ⟨hreset, .inl ⟨hr, he, hp⟩⟩)
  · exact .inr (.inl ⟨hreset, .inr ⟨hr, hp⟩⟩)
  · exact absurd (congrArg Block.busy hround) hne
  · exact .inl hfold
  · rw [ht, ← hs'] at hne
    obtain ⟨hb, hfull, rfl⟩ := access_of_exec_busy_ne hi hx hne
    exact .inr (.inr ⟨hs' ▸ hb, hr, hs' ▸ hfull, rest, hp⟩)
  · rw [ht, ← hs'] at hne
    obtain ⟨-, -, ha⟩ := access_of_exec_busy_ne hi hx hne
    simp [Access.busRead, Access.busWrite] at ha

/-- Settles O44: of the steps that change BUSY, the fold and a reset load end with 0, and COMPRESS's write begins with 0. -/
theorem busyFallsOnlyWithTheFold : Obligations.BusyFallsOnlyWithTheFold := by
  intro s t h
  refine ⟨fun hs ht => ?_, fun hs ht => ?_⟩ <;>
    obtain ⟨hr, he, hrnd, hfold⟩ | ⟨hload, hreset⟩ | ⟨hidle, hstart⟩ := step_busy_ne h (by simp [hs, ht])
  · exact .inl ⟨hr, he, hrnd, by simp [hfold], by simp [hfold], by simp [hfold]⟩
  · exact .inr hreset
  · simp [hs] at hidle
  · simp [hfold] at ht
  · simp [hload, Block.reset] at ht
  · exact hstart

end Sys2Proof.Machine
end

section
/-! PROOFS. Decoding and encoding are inverse to each other on well-formed instructions (spec/30_encoding.md R82, R84, R85,
spec/20_memory.md R52, R54). -/

namespace Sys2Proof.Machine

variable {a : Access} {i : Instr} {o : Offset}

/-- Settles O49: a reserved row's offset selects that row, and any other row's command word or offset is a
literal of the table. -/
theorem decodeOfEncode : Obligations.DecodeOfEncode := by
  intro i hwf
  cases i with
  | rsvdR o =>
    calc decode (.bus (.busRead o)) = .ok (decodeRead o) := decode_busRead (Laws.EncodeAdmitted.aligned_of_reserved hwf)
      _ = .ok (.rsvdR o) := by rw [decodeRead_of_isReserved hwf]
  | rsvdW o v =>
    calc decode (.bus (.busWrite o v)) = .ok (decodeWrite o v) :=
          decode_busWrite (Laws.EncodeAdmitted.aligned_of_reserved hwf) v
      _ = .ok (.rsvdW o v) := by rw [decodeWrite_of_isReserved hwf]
  | nop | init | compress => rfl
  | cmdR | statusR | h0R | h1R | h2R | h3R | h4R => exact decode_busRead (by decide)
  | msg0R | msg1R | msg2R | msg3R | msg4R | msg5R | msg6R | msg7R => exact decode_busRead (by decide)
  | msg8R | msg9R | msg10R | msg11R | msg12R | msg13R | msg14R | msg15R => exact decode_busRead (by decide)
  | cmdW v | statusW v | h0W v | h1W v | h2W v | h3W v | h4W v => exact decode_busWrite (by decide) v
  | msg0W v | msg1W v | msg2W v | msg3W v | msg4W v | msg5W v | msg6W v | msg7W v => exact decode_busWrite (by decide) v
  | msg8W v | msg9W v | msg10W v | msg11W v | msg12W v | msg13W v | msg14W v | msg15W v =>
    exact decode_busWrite (by decide) v

/-- A read row of an aligned offset is a named one or carries a reserved slot (R52). -/
theorem wf_decodeRead (ho : isAligned o = true) : (decodeRead o).wf = true := by
  have hmod := isAligned_iff.mp ho
  unfold decodeRead
  split
  case h_24 =>
    simp only [imp_false] at *
    exact isReserved_iff.mpr ⟨hmod, by bv_omega⟩
  all_goals rfl

/-- A write row of an aligned offset is a named one or carries a reserved slot (R52). -/
theorem wf_decodeWrite (ho : isAligned o = true) (v : Word) : (decodeWrite o v).wf = true := by
  have hmod := isAligned_iff.mp ho
  unfold decodeWrite
  split
  case h_24 =>
    simp only [imp_false] at *
    exact isReserved_iff.mpr ⟨hmod, by bv_omega⟩
  all_goals rfl

/-- An access that has a row is an admitted one, and the row is that of its direction and offset (R54, R85). -/
theorem decodeAccess_ok (h : decodeAccess a = .ok i) :
    isAligned a.offset = true ∧
      ((a = .busRead a.offset ∧ i = decodeRead a.offset) ∨
        ∃ v, a = .busWrite a.offset v ∧ i = decodeWrite a.offset v) := by
  obtain ⟨o, bits, dir⟩ := a
  unfold decodeAccess at h
  split_ifs at h with hbits hal
  obtain rfl : bits = 32 := not_not.mp hbits
  refine ⟨by simpa using hal, ?_⟩
  cases dir with
  | read => exact .inl ⟨rfl, (Except.ok.inj h).symm⟩
  | write v => exact .inr ⟨v, rfl, (Except.ok.inj h).symm⟩

/-- Settles O50: a command word, a read and a write each give the row that encodes back to them. -/
theorem encodeOfDecode : Obligations.EncodeOfDecode := by
  intro x i h
  cases x with
  | cmd w =>
    refine ⟨?_, encode_of_decodeCommand h⟩
    obtain rfl | rfl | rfl := decodeCommand_ok h <;> rfl
  | bus a =>
    obtain ⟨hal, ⟨ha, rfl⟩ | ⟨v, ha, rfl⟩⟩ := decodeAccess_ok h
    · exact ⟨wf_decodeRead hal, by rw [encode_decodeRead, ← ha]⟩
    · exact ⟨wf_decodeWrite hal v, by rw [encode_decodeWrite, ← ha]⟩

/-- Settles O51, form by form. -/
theorem sampleFormsDecode : Obligations.SampleFormsDecode := by
  unfold Obligations.SampleFormsDecode
  decide

end Sys2Proof.Machine
end

section
/-! PROOFS. The order of tests of a CMD write (spec/30_encoding.md R81, spec/60_exceptions.md R222), and one read of a polling loop
(spec/30_encoding.md R86). -/

namespace Sys2Proof.Machine

variable {s : State} {v : Word}

/-- A CMD write while busy only raises ERR_BUSY (R81, R223). -/
theorem exec_cmdW_busy (hb : s.block.busy = true) (v : Word) :
    exec (.cmdW v) s = .next { s with block := s.block.raise .busy } := by
  simp only [exec, execCmdW, onBlock, Block.whenIdle_busy _ hb]

/-- An accepted CMD write of a word that is no command only raises ERR_CMD (R222). -/
theorem exec_cmdW_illegal (hb : s.block.busy = false) (hv : decodeCommand v = .error (.illegalCommand v)) :
    exec (.cmdW v) s = .next { s with block := s.block.raise .cmd } := by
  have hc : s.block.command v = s.block.raise .cmd := by
    obtain ⟨hv', -⟩ | ⟨hv', -⟩ | ⟨hv', -⟩ | ⟨-, hc⟩ := s.block.command_cases v
    case inr.inr.inr => exact hc
    all_goals (rw [hv] at hv'; cases hv')
  simp only [exec, execCmdW, onBlock, Block.whenIdle_idle _ hb, hc]

/-- Settles O7: the CMD write does what its word decodes to, and an illegal word raises ERR_CMD. -/
theorem commandWriteOrderOfTests : Obligations.CommandWriteOrderOfTests := by
  intro v s
  refine ⟨fun hb => exec_cmdW_busy hb v, fun hb (hr : rsvdField v ≠ 0#28) => exec_cmdW_illegal hb ?_,
    fun hb (hr : rsvdField v = 0#28) => ⟨fun (ho : opField v = 0x0#4) => (exec_of_decodeCommand ?_ s).symm,
      fun (ho : opField v = 0x1#4) => (exec_of_decodeCommand ?_ s).symm,
      fun (ho : opField v = 0x2#4) => (exec_of_decodeCommand ?_ s).symm,
      fun (ho : 3 ≤ (opField v).toNat) => exec_cmdW_illegal hb ?_⟩⟩
  · simp [decodeCommand, hr]
  · simp [decodeCommand, hr, ho]
  · simp [decodeCommand, hr, ho]
  · simp [decodeCommand, hr, ho]
  · have hne {op : BitVec 4} (hop : op.toNat < 3) : opField v ≠ op := by
      rintro rfl
      omega
    simp [decodeCommand, hr, hne]

/-- Settles O46: the step is the loop's read, whose instruction has the effect of the decoded one. -/
theorem pollRepeatsUntilMatch : Obligations.PollRepeatsUntilMatch := by
  intro s t off mask val i rest hr he hx hp hexec
  obtain ⟨j, hj, hsame⟩ := accessInstr_toAccess hx
  have hread : accessInstr (.busRead off) = .ok j := hj
  simp only [step_poll hr he hp, runPoll, hread, hsame, hexec, andThen, State.endPoll]

end Sys2Proof.Machine
end

section
/-! PROOFS. The listing of a program line reads back (spec/30_encoding.md R86). -/

namespace Sys2Proof.Machine

theorem hexValue_upperHexDigit {d : Nat} (hd : d < 16) : hexValue (upperHexDigit d) = some d := by
  interval_cases d <;> rfl

/-- Reading n digits of v continues the value read so far with the last n digits of v. -/
theorem takeHex_hexDigits (v n acc : Nat) (l : List Char) :
    takeHex n acc (hexDigits upperHexDigit v n ++ l) = some (acc * 16 ^ n + v % 16 ^ n, l) := by
  induction n generalizing acc with
  | zero => simp [hexDigits, takeHex, Nat.mod_one]
  | succ n ih =>
    have hdigit := hexValue_upperHexDigit (Nat.mod_lt (v / 16 ^ n) (by decide : 0 < 16))
    have hvalue : (acc * 16 + v / 16 ^ n % 16) * 16 ^ n + v % 16 ^ n = acc * 16 ^ (n + 1) + v % 16 ^ (n + 1) := by
      rw [Nat.mod_pow_succ]
      ring
    simp only [hexDigits, List.cons_append, takeHex, hdigit, ih, hvalue]

/-- A field wide enough for a number reads that number back. -/
theorem takeField_hexDigits {v n : Nat} (hv : v < 16 ^ n) (l : List Char) :
    takeField n (' ' :: (hexDigits upperHexDigit v n ++ l)) = some (v, l) := by
  simp only [takeField, takeHex_hexDigits, Nat.mod_eq_of_lt hv, Nat.zero_mul, Nat.zero_add]

/-- An offset's two digits read back, whatever follows. -/
theorem takeField_offset (o : Offset) (l : List Char) :
    takeField 2 (' ' :: (hexDigits upperHexDigit o.toNat 2 ++ l)) = some (o.toNat, l) :=
  takeField_hexDigits o.isLt l

/-- A word's eight digits read back, whatever follows. -/
theorem takeField_word (w : Word) (l : List Char) :
    takeField 8 (' ' :: (hexDigits upperHexDigit w.toNat 8 ++ l)) = some (w.toNat, l) :=
  takeField_hexDigits w.isLt l

/-- An offset's two digits read back at the end of a line. -/
theorem takeField_offset_end (o : Offset) :
    takeField 2 (' ' :: hexDigits upperHexDigit o.toNat 2) = some (o.toNat, []) := by
  simpa using takeField_offset o []

/-- A word's eight digits read back at the end of a line. -/
theorem takeField_word_end (w : Word) :
    takeField 8 (' ' :: hexDigits upperHexDigit w.toNat 8) = some (w.toNat, []) := by
  simpa using takeField_word w []

/-- Settles O52: each kind of line, field by field. -/
theorem listingReadsBack : Obligations.ListingReadsBack := by
  intro op
  cases op with
  | sw o v => simp [HostOp.listing, parseListing, takeField_offset, takeField_word_end]
  | lw o => simp [HostOp.listing, parseListing, takeField_offset_end]
  | poll o mask val => simp [HostOp.listing, parseListing, takeField_offset, takeField_word, takeField_word_end]

end Sys2Proof.Machine
end

section
/-! PROOFS. The padding stage, piece by piece (spec/40_host_padding.md R101 to R105). -/

namespace Sys2Proof.Machine

/-- Message, terminator, zeros and trailer, by their lengths (R104). -/
theorem pad_length (m : List Byte) : (pad m).length = m.length + 1 + padCount m.length + 8 := by
  simp only [pad, List.length_append, List.length_singleton, List.length_replicate, bytesBe_length]

/-- Message, terminator and zeros end 8 bytes before a multiple of 64 (R103). -/
theorem pad_length_eq_mul (m : List Byte) : (pad m).length = 64 * ((m.length + 8) / 64 + 1) := by
  rw [pad_length, padCount]
  omega

/-- The terminator stands right after the message (R102). -/
theorem pad_getElem?_terminator (m : List Byte) : (pad m)[m.length]? = some 0x80#8 := by
  simp [pad]

/-- Between the terminator and the trailer stand zeros (R103). -/
theorem pad_getElem?_zero (m : List Byte) {k : Nat} (hlo : m.length < k) (hhi : k < (pad m).length - 8) :
    (pad m)[k]? = some 0x00#8 := by
  rw [pad_length] at hhi
  rw [pad, List.getElem?_append_left (by simp; omega), List.getElem?_append_right (by simp; omega),
    List.getElem?_replicate_of_lt (by simp; omega)]

/-- The last 8 bytes are the trailer (R104). -/
theorem pad_drop_trailer (m : List Byte) : (pad m).drop ((pad m).length - 8) = bytesBe (8 * m.length) 8 := by
  rw [pad_length, pad]
  exact List.drop_left' (by simp; omega)

/-- Read big-endian onto a value read so far, bytes_be(v, n) gives the last n base-256 digits of v (R17). -/
theorem foldl_bytesBe (v n acc : Nat) :
    (bytesBe v n).foldl (fun acc b => acc * 256 + b.toNat) acc = acc * 256 ^ n + v % 256 ^ n := by
  induction n generalizing acc with
  | zero => simp [bytesBe, Nat.mod_one]
  | succ n ih =>
    rw [bytesBe, List.foldl_cons, ih, BitVec.toNat_ofNat, Nat.mod_pow_succ (b := 256)]
    ring

/-- Settles O53: the pieces of pad one by one; the trailer loses nothing since 8 * (2^61 - 1) < 256^8. -/
theorem paddingProperties : Obligations.PaddingProperties := by
  intro m hm
  have hlen := pad_length_eq_mul m
  refine ⟨by omega, by omega, by simp [pad], ?_, ?_, by omega, by omega, by omega⟩
  · rw [pad_drop_trailer, foldl_bytesBe, Nat.mod_eq_of_lt (by omega), Nat.zero_mul, Nat.zero_add]
  · rw [blocksOf, List.length_map, List.length_range, hlen, Nat.mul_div_cancel_left _ (by decide)]

/-- Settles O54, with one lemma for each piece of pad. -/
theorem paddingTerminatorAndZeros : Obligations.PaddingTerminatorAndZeros :=
  fun m => ⟨pad_length m, pad_getElem?_terminator m, fun _ => pad_getElem?_zero m⟩

end Sys2Proof.Machine
end

section
/-! PROOFS. The text of a digest (spec/40_host_padding.md R108, R109). -/

namespace Sys2Proof.Machine

/-- Every lower-case digit of a listing is one of the sixteen (R109). -/
theorem lowerHexDigit_mem {d : Nat} (hd : d < 16) :
    lowerHexDigit d ∈ ['0', '1', '2', '3', '4', '5', '6', '7', '8', '9', 'a', 'b', 'c', 'd', 'e', 'f'] := by
  interval_cases d <;> decide

theorem hexDigits_lower_mem {v n : Nat} {c : Char} (hc : c ∈ hexDigits lowerHexDigit v n) :
    c ∈ ['0', '1', '2', '3', '4', '5', '6', '7', '8', '9', 'a', 'b', 'c', 'd', 'e', 'f'] := by
  induction n with
  | zero => cases hc
  | succ n ih =>
    obtain rfl | hc := List.mem_cons.mp hc
    · exact lowerHexDigit_mem (Nat.mod_lt _ (by decide))
    · exact ih hc

theorem hexValue_lowerHexDigit {d : Nat} (hd : d < 16) : hexValue (lowerHexDigit d) = some d := by
  interval_cases d <;> rfl

/-- A hex digit in front is read first. -/
theorem takeHex_cons {c : Char} {d : Nat} (hc : hexValue c = some d) (n acc : Nat) (l : List Char) :
    takeHex (n + 1) acc (c :: l) = takeHex n (acc * 16 + d) l := by
  rw [takeHex, hc]

/-- Digits read back the same in either case. -/
theorem takeHex_hexDigits_lower (v n acc : Nat) (l : List Char) :
    takeHex n acc (hexDigits lowerHexDigit v n ++ l) = takeHex n acc (hexDigits upperHexDigit v n ++ l) := by
  induction n generalizing acc with
  | zero => rw [hexDigits, hexDigits]
  | succ n ih =>
    have hd : v / 16 ^ n % 16 < 16 := Nat.mod_lt _ (by decide)
    rw [hexDigits, hexDigits, List.cons_append, List.cons_append, takeHex_cons (hexValue_lowerHexDigit hd),
      takeHex_cons (hexValue_upperHexDigit hd), ih]

/-- Reading m + n digits is reading m, then n more onto their value. -/
theorem takeHex_add {m n acc a : Nat} {l l' : List Char} (h : takeHex m acc l = some (a, l')) :
    takeHex (m + n) acc l = takeHex n a l' := by
  induction m generalizing acc l with
  | zero =>
    cases h
    rw [Nat.zero_add]
  | succ m ih =>
    cases l with
    | nil => cases h
    | cons c l =>
      cases hc : hexValue c with
      | none => simp [takeHex, hc] at h
      | some d =>
        rw [takeHex_cons hc] at h
        rw [Nat.add_right_comm, takeHex_cons hc, ih h]

/-- A list of words, eight digits each, reads back as the number whose base-2^32 digits they are. -/
theorem takeHex_flatMap_words (ws : List Word) (acc : Nat) :
    takeHex (8 * ws.length) acc (ws.flatMap fun w => hexDigits lowerHexDigit w.toNat 8) =
      some (ws.foldl (fun a w => a * 2 ^ 32 + w.toNat) acc, []) := by
  induction ws generalizing acc with
  | nil => rfl
  | cons w ws ih =>
    have hword (l : List Char) : takeHex 8 acc (hexDigits lowerHexDigit w.toNat 8 ++ l) = some (acc * 2 ^ 32 + w.toNat, l) := by
      rw [takeHex_hexDigits_lower, takeHex_hexDigits, show 16 ^ 8 = 2 ^ 32 from rfl, Nat.mod_eq_of_lt w.isLt]
    rw [List.flatMap_cons, List.length_cons, Nat.mul_succ, Nat.add_comm, takeHex_add (hword _), ih, List.foldl_cons]

/-- A word appended below a bit vector is one more base-2^32 digit. -/
theorem toNat_append_word {w : Nat} (x : BitVec w) (y : Word) : (x ++ y).toNat = x.toNat * 2 ^ 32 + y.toNat := by
  rw [BitVec.toNat_append, ← Nat.shiftLeft_add_eq_or_of_lt y.isLt, Nat.shiftLeft_eq]

/-- The five words of H as a list. -/
theorem toList_digest (h : Vector Word 5) : h.toList = [h[0], h[1], h[2], h[3], h[4]] := by
  apply List.ext_getElem (by simp)
  intro k hk _
  have hk : k < 5 := by simpa using hk
  interval_cases k <;> simp

/-- The digest value is the number whose base-2^32 digits are the five words, h0 first (R108). -/
theorem toNat_digestValue (h : Vector Word 5) :
    (digestValue h).toNat = h.toList.foldl (fun a w => a * 2 ^ 32 + w.toNat) 0 := by
  simp only [digestValue, toNat_append_word, toList_digest, List.foldl_cons, List.foldl_nil, Nat.zero_mul, Nat.zero_add]

/-- Settles O57, with takeHex_flatMap_words for the value. -/
theorem digestHexIsValue : Obligations.DigestHexIsValue := by
  intro h
  refine ⟨by simp [digestHex, toList_digest], fun c hc => ?_, ?_⟩
  · obtain ⟨w, -, hc⟩ := List.mem_flatMap.mp hc
    exact hexDigits_lower_mem hc
  · have hread := takeHex_flatMap_words h.toList 0
    rwa [Vector.length_toList, ← toNat_digestValue] at hread

end Sys2Proof.Machine
end

section
/-! PROOFS. Guarded writes while idle, and the five writes of SETH (spec/41_commands.md R138, spec/40_host_padding.md R111). -/

namespace Sys2Proof.Machine

variable {i : Instr} {f : Block → Block} {s : State}

/-- A guarded write is the block write of its row's effect, behind the idle test. -/
theorem IdleWrite.exec_eq (hf : IdleWrite i f) (s : State) : exec i s = .next { s with block := s.block.whenIdle f } := by
  cases hf with
  | nop | init | compress | command => rfl
  | digest j v => fin_cases j <;> rfl
  | window j v => fin_cases j <;> rfl

/-- While idle a guarded write has its row's effect. -/
theorem IdleWrite.exec_idle (hf : IdleWrite i f) (hb : s.block.busy = false) :
    exec i s = .next { s with block := f s.block } := by
  rw [hf.exec_eq, Block.whenIdle_idle f hb]

/-- While idle a list of writes of H writes them one after the other. -/
theorem execAll_digestWrites (ws : List (Fin 5 × Word)) (hb : s.block.busy = false) :
    execAll (ws.map fun w => decodeWrite (hOffset w.1) w.2) s =
      .next { s with block := ws.foldl (fun b w => b.setDigest w.1 w.2) s.block } := by
  induction ws generalizing s with
  | nil => rfl
  | cons w ws ih =>
    rw [List.map_cons, execAll, (IdleWrite.digest w.1 w.2).exec_idle hb]
    exact ih hb

/-- Writing five words to the five registers leaves H those words, each register being set once. -/
theorem setDigest_all (x : Vector Word 5) (b : Block) :
    ((((b.setDigest 0 x[0]).setDigest 1 x[1]).setDigest 2 x[2]).setDigest 3 x[3]).setDigest 4 x[4] = { b with h := x } := by
  have hset : ((((b.h.set 0 x[0]).set 1 x[1]).set 2 x[2]).set 3 x[3]).set 4 x[4] = x := by
    ext k hk
    interval_cases k <;> simp
  exact congrArg (fun h => { b with h := h }) hset

/-- Settles O58: SETH is a list of writes of H, one to each register. -/
theorem savedDigestIsRestored : Obligations.SavedDigestIsRestored := by
  intro x s hb
  have hrows : [.h0W x[0], .h1W x[1], .h2W x[2], .h3W x[3], .h4W x[4]] =
      ([(0, x[0]), (1, x[1]), (2, x[2]), (3, x[3]), (4, x[4])] : List (Fin 5 × Word)).map
        fun w => decodeWrite (hOffset w.1) w.2 := rfl
  simp only [hrows, execAll_digestWrites _ hb, List.foldl_cons, List.foldl_nil, setDigest_all]

end Sys2Proof.Machine
end

section
/-! PROOFS. The host program on the block, piece by piece: its writes, the rounds and the fold of each COMPRESS, its reads
(spec/30_encoding.md R87; spec/43_compression_rounds.md R197 to R199; spec/40_host_padding.md R107). -/

namespace Sys2Proof.Machine

variable {s t : State} {P Q : State → Prop} {m : Vector Word 16} {rest : List HostItem} {h : Vector Word 5} {reads : List Word}
  {clean : Bool}

/-- k rounds from a start are k rounds over the schedule of the block in the window (R176, R196). -/
theorem engineRound_iterate {b : Block} (h0 : b.rnd = 0#7) {k : Nat} (hk : k ≤ 80) :
    Block.engineRound^[k] b =
      { b with msg := windowAfter b.msg k, work := rounds (scheduleWord b.msg) k b.work, rnd := BitVec.ofNat 7 k } := by
  induction k with
  | zero => rw [Function.iterate_zero, id, windowAfter_zero, rounds_zero, ← h0]
  | succ k ih =>
    have hrnd : (BitVec.ofNat 7 k).toNat = k := by
      rw [BitVec.toNat_ofNat]
      omega
    rw [Function.iterate_succ_apply', ih (by omega), Block.engineRound]
    simp only [hrnd, windowAfter_succ, rounds_succ, windowForRound_getElem, BitVec.ofNat_add]

/-- The fold after a start's eighty rounds leaves compress(h, m) in H (R198, R199). -/
theorem fold_h_of_start (b : Block) : (Block.engineRound^[80] b.start).fold.h = compress b.h b.msg := by
  rw [engineRound_iterate (b := b.start) rfl le_rfl, Block.fold_h, compress_eq, Block.start_h, Block.start_work, Block.start_msg]

/-- Neither the start nor the rounds nor the fold touch the error bits. -/
theorem fold_errorFree_of_start (b : Block) : (Block.engineRound^[80] b.start).fold.errorFree = b.errorFree := by
  rw [engineRound_iterate (b := b.start) rfl le_rfl]
  rfl

/-- Slot j holds its word of the block m, and is valid (R23, R24). -/
def Block.Holds (b : Block) (m : Vector Word 16) (j : Fin 16) : Prop := b.msg[j] = m[j] ∧ b.mvalid.getLsbD j = true

/-- A write of one slot's word makes that slot hold it and keeps the slots that hold theirs (R140). -/
theorem Block.setWindow_holds {b : Block} {i j : Fin 16} (hj : j = i ∨ b.Holds m j) : (b.setWindow i m[i]).Holds m j := by
  by_cases hij : j = i
  · subst hij
    exact ⟨by simp, by simp [markValid]⟩
  · obtain ⟨hmsg, hvalid⟩ := hj.resolve_left hij
    have hne : i.val ≠ j.val := fun h => hij (Fin.ext h.symm)
    refine ⟨?_, by simp [markValid, hvalid]⟩
    rw [← hmsg]
    exact Vector.getElem_set_ne i.isLt j.isLt hne

/-- The writes of the slots `js`, in order, make each of them hold its word. -/
theorem foldl_setWindow_holds (js : List (Fin 16)) {b : Block} {j : Fin 16} (hj : j ∈ js ∨ b.Holds m j) :
    (js.foldl (fun b j => b.setWindow j m[j]) b).Holds m j := by
  induction js generalizing b with
  | nil => simpa using hj
  | cons i js ih =>
    apply ih
    rw [List.mem_cons, or_assoc] at hj
    obtain rfl | hj | hj := hj
    · exact .inr (Block.setWindow_holds (.inl rfl))
    · exact .inl hj
    · exact .inr (Block.setWindow_holds (.inr hj))

/-- Writes of the window change nothing but the window. -/
theorem foldl_setWindow_frame (js : List (Fin 16)) (b : Block) :
    ∃ msg mvalid, js.foldl (fun b j => b.setWindow j m[j]) b = { b with msg := msg, mvalid := mvalid } := by
  induction js generalizing b with
  | nil => exact ⟨_, _, rfl⟩
  | cons i js ih => exact ih (b.setWindow i m[i])

/-- LDBLK loads the whole block and nothing else (R87). -/
theorem foldl_setWindow_finRange (m : Vector Word 16) (b : Block) :
    (List.finRange 16).foldl (fun b j => b.setWindow j m[j]) b = { b with msg := m, mvalid := mvalidFull } := by
  obtain ⟨msg, mvalid, hframe⟩ := foldl_setWindow_frame (m := m) (List.finRange 16) b
  have hload (j : Fin 16) := foldl_setWindow_holds (m := m) (b := b) (List.finRange 16) (.inl (List.mem_finRange j))
  simp only [hframe] at hload ⊢
  have hmsg : msg = m := Vector.ext fun k hk => (hload ⟨k, hk⟩).1
  have hvalid : mvalid = BitVec.allOnes 16 := BitVec.eq_of_getLsbD_eq fun k hk => by
    rw [BitVec.getLsbD_allOnes, decide_eq_true hk]
    exact (hload ⟨k, hk⟩).2
  rw [hmsg, hvalid]
  rfl

/-- From s the machine runs to a state of which P holds. -/
def State.Leads (s : State) (P : State → Prop) : Prop := ∃ t, Reaches s t ∧ P t

theorem Reaches.leads (hs : Reaches s t) (ht : t.Leads P) : s.Leads P := by
  obtain ⟨u, hu, hp⟩ := ht
  exact ⟨u, hs.trans hu, hp⟩

theorem State.Leads.bind (hs : s.Leads P) (hP : ∀ t, P t → t.Leads Q) : s.Leads Q := by
  obtain ⟨t, ht, hp⟩ := hs
  exact ht.leads (hP t hp)

/-- Out of reset and idle, the host has `items` before it and has read `reads`; H holds h, and `clean` says that no error bit is
set. -/
structure State.Awaits (s : State) (items : List HostItem) (h : Vector Word 5) (reads : List Word) (clean : Bool) : Prop where
  inReset : s.inReset = false
  idle : s.block.busy = false
  pending : s.pending = items
  digest : s.block.h = h
  reads : s.reads = reads
  errorFree : s.block.errorFree = clean

/-- An access of an idle block, out of reset, runs the decoded instruction, and a read's word is kept. -/
theorem State.Awaits.access {x : Encoded} {i : Instr} (hs : s.Awaits (.access x.toAccess :: rest) h reads clean)
    (hx : decode x = .ok i) (hi : exec i { s with pending := rest } = .next t) : Reaches s (t.keepRead x.toAccess.dir) := by
  have he : s.engineTurn = false := by simp [State.engineTurn, hs.idle]
  have hu : s.useTurn = s := by simp [State.useTurn, hs.idle]
  have hstep := stepRunsDecodedAccess s x i rest hs.inReset he hx hs.pending
  rw [hu, hi] at hstep
  exact .of_step hstep

/-- INIT (R87, R133). -/
theorem State.Awaits.init_leads (hs : s.Awaits (initOps.map HostOp.toItem ++ rest) h reads clean) :
    s.Leads fun t => t.Awaits rest iv reads clean :=
  ⟨_, hs.access (x := .cmd 0x00000001#32) (by decide) (IdleWrite.init.exec_idle hs.idle),
    hs.inReset, hs.idle, rfl, rfl, hs.reads, hs.errorFree⟩

/-- CLRERR (R87, R227). -/
theorem State.Awaits.clearErrors_leads (hs : s.Awaits (clrErrOps.map HostOp.toItem ++ rest) h reads clean) :
    s.Leads fun t => t.Awaits rest h reads true :=
  ⟨_, hs.access (x := .bus (.busWrite 0x04#8 0x00000700#32)) (i := .statusW 0x00000700#32) (by decide) rfl,
    hs.inReset, hs.idle, rfl, hs.digest, hs.reads, by simp [Block.errorFree, Encoded.toAccess, Access.busWrite]⟩

theorem isAligned_msgOffset : ∀ j : Fin 16, isAligned (msgOffset j) = true := by decide

theorem isAligned_hOffset : ∀ i : Fin 5, isAligned (hOffset i) = true := by decide

/-- LDBLK up to slot list `js`: writes of the window, one step each (R87, R140). -/
theorem State.Awaits.windowWrites_leads {js : List (Fin 16)}
    (hs : s.Awaits ((js.map fun j => HostOp.sw (msgOffset j) m[j]).map HostOp.toItem ++ rest) h reads clean) :
    s.Leads fun t => t.Awaits rest h reads clean ∧ t.block = js.foldl (fun b j => b.setWindow j m[j]) s.block := by
  induction js generalizing s with
  | nil => exact ⟨s, .refl s, hs, rfl⟩
  | cons j js ih =>
    have hw := hs.access (x := .bus (.busWrite (msgOffset j) m[j])) (decode_busWrite (isAligned_msgOffset j) _)
      ((IdleWrite.window j m[j]).exec_idle (s := { s with pending := _ }) hs.idle)
    exact hw.leads (ih ⟨hs.inReset, hs.idle, rfl, hs.digest, hs.reads, hs.errorFree⟩)

/-- COMPRESS of a loaded block, and the wait for its fold (R87, R134, R199). -/
theorem State.Awaits.compress_leads (hs : s.Awaits ((compressOps ++ waitOps).map HostOp.toItem ++ rest) h reads clean)
    (hmsg : s.block.msg = m) (hvalid : s.block.mvalid = mvalidFull) :
    s.Leads fun t => t.Awaits rest (compress h m) reads clean := by
  have hx := IdleWrite.compress.exec_idle (s := { s with pending := waitItem :: rest }) hs.idle
  have hstart : s.block.compressCommand = s.block.start := by simp [Block.compressCommand, hvalid]
  have hw := hs.access (x := .cmd 0x00000002#32) (by decide) hx
  obtain ⟨t, ht, hblock, hr, hp, hreads⟩ :=
    wait_reaches_fold (s := { s with pending := waitItem :: rest, block := s.block.compressCommand })
      (b := s.block.start) (k := 0) rfl rfl (by decide) hs.inReset rfl hstart
  refine ⟨t, hw.trans ht, hr, by rw [hblock]; rfl, hp, ?_, hreads.trans hs.reads, ?_⟩
  · rw [hblock, fold_h_of_start, hs.digest, hmsg]
  · rw [hblock, fold_errorFree_of_start, hs.errorFree]

/-- BLOCK: the load, the start, and the wait for the fold (R87, R199). -/
theorem State.Awaits.block_leads (hs : s.Awaits ((blockOps m).map HostOp.toItem ++ rest) h reads clean) :
    s.Leads fun t => t.Awaits rest (compress h m) reads clean := by
  rw [blockOps, List.append_assoc, List.map_append, List.append_assoc] at hs
  refine hs.windowWrites_leads.bind fun t ⟨ht, hblock⟩ => ht.compress_leads ?_ ?_ <;> rw [hblock, foldl_setWindow_finRange]

/-- The blocks of a message, one after the other (R200). -/
theorem State.Awaits.blocks_leads {bs : List (Vector Word 16)}
    (hs : s.Awaits ((bs.flatMap blockOps).map HostOp.toItem ++ rest) h reads clean) :
    s.Leads fun t => t.Awaits rest (bs.foldl compress h) reads clean := by
  induction bs generalizing s h with
  | nil => exact ⟨s, .refl s, hs⟩
  | cons m bs ih =>
    rw [List.flatMap_cons, List.map_append, List.append_assoc] at hs
    exact hs.block_leads.bind fun t ht => ih ht

/-- Reads of H while idle, one step each. -/
theorem State.Awaits.digestReads_leads {is : List (Fin 5)}
    (hs : s.Awaits ((is.map fun i => HostOp.lw (hOffset i)).map HostOp.toItem ++ rest) h reads clean) :
    s.Leads fun t => t.Awaits rest h (reads ++ is.map fun i => h[i]) clean := by
  induction is generalizing s reads with
  | nil => exact ⟨s, .refl s, by simpa using hs⟩
  | cons i is ih =>
    have hx (u : State) : exec (decodeRead (hOffset i)) u = .next { u with rdata := u.block.h[i] } := by fin_cases i <;> rfl
    obtain rfl := hs.digest
    have hr := hs.access (x := .bus (.busRead (hOffset i))) (decode_busRead (isAligned_hOffset i)) (hx _)
    rw [List.map_cons, ← List.singleton_append, ← List.append_assoc]
    exact hr.leads (ih ⟨hs.inReset, hs.idle, rfl, rfl, congrArg (· ++ [s.block.h[i]]) hs.reads, hs.errorFree⟩)

/-- A flag's word has the flag in bit 0 (R28). -/
theorem getElem_flagWord (c : Bool) {k : Nat} (hk : k < 32) : (flagWord c)[k] = (decide (k = 0) && c) := by
  simp [flagWord]

/-- The bits of STATUS that show an interface error (R28). -/
theorem status_errorBits (b : Block) :
    (b.status.getLsbD 8 || b.status.getLsbD 9 || b.status.getLsbD 10) = !b.errorFree := by
  simp [Block.status, Block.errorFree, getElem_flagWord]

/-- The read of STATUS (R141). -/
theorem State.Awaits.statusRead_leads (hs : s.Awaits ([HostOp.lw 0x04#8].map HostOp.toItem ++ rest) h reads clean) :
    s.Leads fun t => ∃ w, t.Awaits rest h (reads ++ [w]) clean ∧ (w.getLsbD 8 || w.getLsbD 9 || w.getLsbD 10) = !clean :=
  ⟨_, hs.access (x := .bus (.busRead 0x04#8)) (i := .statusR) (by decide) rfl, s.block.status,
    ⟨hs.inReset, hs.idle, rfl, hs.digest, congrArg (· ++ [s.block.status]) hs.reads, hs.errorFree⟩,
    by rw [status_errorBits, hs.errorFree]⟩

/-- Bits 10:8 of a word are 0 when each of them is. -/
theorem extractLsb_errorBits (w : Word) :
    w.extractLsb 10 8 = 0#3 ↔ (w.getLsbD 8 || w.getLsbD 9 || w.getLsbD 10) = false := by
  have hbit (k : Nat) (hk : k < 3) : (w.extractLsb 10 8).getLsbD k = w.getLsbD (8 + k) := by
    simp [show k ≤ 2 by omega]
  rw [BitVec.eq_of_getLsbD_eq_iff, Bool.or_eq_false_iff, Bool.or_eq_false_iff]
  constructor
  · intro hzero
    have hw (k : Nat) (hk : k < 3) : w.getLsbD (8 + k) = false := by rw [← hbit k hk, hzero k hk, BitVec.getLsbD_zero]
    exact ⟨⟨hw 0 (by decide), hw 1 (by decide)⟩, hw 2 (by decide)⟩
  · rintro ⟨⟨h8, h9⟩, h10⟩ k hk
    rw [hbit k hk, BitVec.getLsbD_zero]
    interval_cases k
    · exact h8
    · exact h9
    · exact h10

/-- What the driver returns from its last six words (R107, R227). -/
theorem driverResult_append (old : List Word) (h0 h1 h2 h3 h4 w : Word) :
    driverResult (old ++ [h0, h1, h2, h3, h4, w]) =
      if w.getLsbD 8 || w.getLsbD 9 || w.getLsbD 10 then .error .interfaceError else .ok #v[h0, h1, h2, h3, h4] := by
  have hlast : (old ++ [h0, h1, h2, h3, h4, w]).drop ((old ++ [h0, h1, h2, h3, h4, w]).length - 6) = [h0, h1, h2, h3, h4, w] :=
    List.drop_left' (by simp)
  simp only [driverResult, hlast, extractLsb_errorBits]
  cases w.getLsbD 8 || w.getLsbD 9 || w.getLsbD 10 <;> rfl

end Sys2Proof.Machine
end

section
/-! PROOFS. compute_digest: its refusals, its program, and the digest it returns from the block, with a restart if an error bit was
set (spec/40_host_padding.md R101, R107, R110; spec/43_compression_rounds.md R200). -/

namespace Sys2Proof.Machine

variable {s t : State} {h : Vector Word 5} {reads : List Word} {clean : Bool}

/-- The lines of compute_digest's program over a list of blocks (R107). -/
def digestOps (bs : List (Vector Word 16)) : List HostOp := initOps ++ bs.flatMap blockOps ++ rdhOps ++ [.lw 0x04#8]

/-- The run of compute_digest's program has ended: the block is idle and out of reset, with `clean` for its error bits, and the words
read give the digest x if `clean` and an interface error otherwise. -/
def State.Answers (t : State) (x : Vector Word 5) (clean : Bool) : Prop :=
  (∃ reads, t.Awaits [] x reads clean) ∧ driverResult t.reads = if clean then .ok x else .error .interfaceError

/-- The five words of H as a vector. -/
theorem vector_digest (h : Vector Word 5) : #v[h[0], h[1], h[2], h[3], h[4]] = h :=
  Vector.toList_inj.mp (toList_digest h).symm

/-- compute_digest's program leaves the end of the chain over its blocks in H, reads it, and finds in STATUS the error bits as they
were before (R107, R200). -/
theorem State.Awaits.digestOps_leads {bs : List (Vector Word 16)}
    (hs : s.Awaits ((digestOps bs).map HostOp.toItem) h reads clean) :
    s.Leads fun t => t.Answers (bs.foldl compress iv) clean := by
  have hs : s.Awaits (initOps.map HostOp.toItem ++ ((bs.flatMap blockOps).map HostOp.toItem ++
      (rdhOps.map HostOp.toItem ++ ([HostOp.lw 0x04#8].map HostOp.toItem ++ [])))) h reads clean := by
    simpa only [digestOps, List.map_append, List.append_assoc, List.append_nil] using hs
  obtain ⟨t, hreach, w, ht, hw⟩ := hs.init_leads.bind fun _ hs => hs.blocks_leads.bind fun _ hs =>
    hs.digestReads_leads.bind fun _ hs => hs.statusRead_leads
  generalize bs.foldl compress iv = x at ht ⊢
  have hreads : t.reads = reads ++ [x[0], x[1], x[2], x[3], x[4], w] := by
    rw [ht.reads, List.append_assoc]
    rfl
  refine ⟨t, hreach, ⟨_, ht⟩, ?_⟩
  rw [hreads, driverResult_append, hw, vector_digest]
  cases clean <;> rfl

/-- A restart clears the error bits and then runs the program (R107, R227). -/
theorem State.Awaits.restartOps_leads {bs : List (Vector Word 16)}
    (hs : s.Awaits ((restartOps (digestOps bs)).map HostOp.toItem) h reads clean) :
    s.Leads fun t => t.Answers (bs.foldl compress iv) true := by
  rw [restartOps, List.map_append] at hs
  exact hs.clearErrors_leads.bind fun _ ht => ht.digestOps_leads

/-- A program issued to a host with nothing before it is what the host has before it. -/
theorem State.Awaits.issue (hs : s.Awaits [] h reads clean) (program : List HostOp) :
    (s.issue program).Awaits (program.map HostOp.toItem) h reads clean :=
  ⟨hs.inReset, hs.idle, by simp [State.issue, hs.pending], hs.digest, hs.reads, hs.errorFree⟩

/-- A program that leads to an answer runs to it, whatever more steps are allowed. -/
theorem runProgram_of_leads_answers {program : List HostOp} (hp : (s.issue program).Leads fun t => t.Answers h clean) :
    ∃ t, t.Answers h clean ∧ ∃ n₀, ∀ n, n₀ ≤ n → runProgram n program s = .ok t := by
  obtain ⟨t, hreach, hans⟩ := hp
  obtain ⟨reads, ht⟩ := hans.1
  exact ⟨t, hans, runProgram_of_reaches hreach (by simp [State.isFinal, ht.pending, ht.idle])⟩

/-- Attempts at a digest from an idle block: the first returns it if no error bit was set, and one restart returns it in any case
(R107). -/
theorem attemptDigest_of_awaits {bs : List (Vector Word 16)} (hs : s.Awaits [] h reads clean) :
    ∃ n₀, ∀ n, n₀ ≤ n →
      (clean = true → attemptDigest n (digestOps bs) 0 (digestOps bs) s = .ok (bs.foldl compress iv)) ∧
      attemptDigest n (digestOps bs) 1 (digestOps bs) s = .ok (bs.foldl compress iv) := by
  obtain ⟨t, ⟨⟨reads', ht⟩, hres⟩, n₁, hrun⟩ := runProgram_of_leads_answers (hs.issue (digestOps bs)).digestOps_leads
  obtain ⟨u, ⟨-, hres'⟩, n₂, hrun'⟩ := runProgram_of_leads_answers (ht.issue (restartOps (digestOps bs))).restartOps_leads
  refine ⟨max n₁ n₂, fun n hn => ?_⟩
  have hfirst := hrun n (by omega)
  have hsecond := hrun' n (by omega)
  cases clean with
  | true => simp [attemptDigest, hfirst, hres]
  | false => simp [attemptDigest, hfirst, hres, hsecond, hres']

/-- Word j of block n (R106). -/
theorem getElem_blockWords (p : List Byte) (n : Nat) (j : Fin 16) : (blockWords p n)[j] = be32 p (64 * n + 4 * j) := by
  fin_cases j <;> rfl

/-- The lines of BLOCK for block n of a padded sequence (R87, R106). -/
theorem blockOps_blockWords (p : List Byte) (n : Nat) :
    blockOps (blockWords p n) =
      ((List.finRange 16).map fun j => .sw (BitVec.ofNat 8 (0x40 + 4 * j)) (be32 p (64 * n + 4 * j))) ++
        [.sw 0x00#8 0x00000002#32, .poll 0x04#8 0x00000001#32 0x00000000#32] := by
  simp only [blockOps, ldblkOps, msgOffset, getElem_blockWords, compressOps, waitOps, List.append_assoc, List.singleton_append]

/-- The lines of RDH (R87). -/
theorem rdhOps_eq : rdhOps = [.lw 0x10#8, .lw 0x14#8, .lw 0x18#8, .lw 0x1C#8, .lw 0x20#8] := rfl

/-- The chain of R200 after n blocks of a padded sequence. -/
def chain (p : List Byte) (n : Nat) : Vector Word 5 := ((List.range n).map (blockWords p)).foldl compress iv

theorem chain_succ (p : List Byte) (n : Nat) : chain p (n + 1) = compress (chain p n) (blockWords p n) := by
  simp only [chain, List.range_succ, List.map_append, List.foldl_append, List.map_cons, List.map_nil, List.foldl_cons,
    List.foldl_nil]

/-- Settles O56: the refusals by their tests, the program line by line, and the run by attemptDigest_of_awaits. -/
theorem digestChainsBlocksOrRefuses : Obligations.DigestChainsBlocksOrRefuses := by
  refine ⟨rfl, fun _ _ _ => rfl, driverResult_append, fun m => ⟨fun hlong => ?_, fun hm => ?_⟩⟩
  · have hlen : ¬ m.length ≤ maxMsgBytes := Nat.not_le.mpr hlong
    simp [driverProgram, computeDigest, digestProgram, digest, hlen]
  · have hlen : m.length ≤ maxMsgBytes := hm
    have hprogram : driverProgram (some m) = .ok (digestOps (blocksOf (pad m))) := if_pos hlen
    refine ⟨?_, chain (pad m), rfl, fun n _ => chain_succ _ n, if_pos hlen, fun s hr hb hp => ?_⟩
    · rw [hprogram, digestOps, blocksOf, List.flatMap_map]
      simp only [blockOps_blockWords, initOps, rdhOps_eq, List.append_assoc, List.cons_append, List.nil_append]
    · obtain ⟨n₀, hn₀⟩ := attemptDigest_of_awaits (bs := blocksOf (pad m)) ⟨hr, hb, hp, rfl, rfl, rfl⟩
      refine ⟨n₀, fun n hn => ?_⟩
      simp only [computeDigest, hprogram]
      exact hn₀ n hn

end Sys2Proof.Machine
end

section
/-! PROOFS. The commands and the register writes, while idle and while busy (spec/41_commands.md R130 to R135, R138, R140; R223). -/

namespace Sys2Proof.Machine

variable {i : Instr} {f : Block → Block} {s : State}

/-- While busy a guarded write only sets ERR_BUSY (R223). -/
theorem IdleWrite.exec_busy (hf : IdleWrite i f) (hb : s.block.busy = true) :
    exec i s = .next { s with block := { s.block with errBusy := true } } := by
  rw [hf.exec_eq, Block.whenIdle_busy f hb]
  rfl

/-- While idle with a full window COMPRESS's write is the start (R134, R135). -/
theorem exec_compress_start (hb : s.block.busy = false) (hv : s.block.mvalid = mvalidFull) :
    exec .compress s = .next { s with block := s.block.start } := by
  obtain ⟨-, h⟩ | ⟨hv', -⟩ := s.block.compressCommand_cases
  · rw [IdleWrite.compress.exec_idle hb, h]
  · exact absurd hv hv'

/-- Settles O3: NOP is the guarded write without an effect. -/
theorem nopChangesNothing : Obligations.NopChangesNothing :=
  ⟨rfl, fun _ => ⟨IdleWrite.nop.exec_idle, IdleWrite.nop.exec_busy⟩⟩

/-- Settles O4: a second INIT finds the block idle and overwrites H with the same values. -/
theorem initLoadsInitialValues : Obligations.InitLoadsInitialValues := by
  refine ⟨rfl, fun s => ⟨fun hb => ⟨IdleWrite.init.exec_idle hb, ?_⟩, IdleWrite.init.exec_busy⟩⟩
  have hinit := IdleWrite.init.exec_idle hb
  have hagain := IdleWrite.init.exec_idle (s := { s with block := s.block.init }) hb
  simp only [execAll, hinit, hagain]
  rfl

/-- Settles O5: the start writes A..E, RND and BUSY only. -/
theorem compressStartSeedsWorkingRegisters : Obligations.CompressStartSeedsWorkingRegisters :=
  ⟨rfl, fun _ => exec_compress_start⟩

/-- Settles O8: the CMD write of a command's word has the command's effect. -/
theorem commandWritePerformsCommand : Obligations.CommandWritePerformsCommand := by
  intro s hb
  refine ⟨?_, ?_, fun hv => ?_⟩
  · rw [← exec_of_decodeCommand (i := .nop) rfl]
    exact IdleWrite.nop.exec_idle hb
  · rw [← exec_of_decodeCommand (i := .init) rfl]
    exact IdleWrite.init.exec_idle hb
  · rw [← exec_of_decodeCommand (i := .compress) rfl]
    exact exec_compress_start hb hv

/-- Settles O11, register by register. -/
theorem digestWritesWhenIdle : Obligations.DigestWritesWhenIdle := by
  intro v s
  have write (i : Fin 5) := IdleWrite.digest i v
  refine ⟨fun hb => ?_, fun hb => ?_, ?_⟩
  · exact ⟨(write 0).exec_idle hb, (write 1).exec_idle hb, (write 2).exec_idle hb, (write 3).exec_idle hb, (write 4).exec_idle hb⟩
  · exact ⟨(write 0).exec_busy hb, (write 1).exec_busy hb, (write 2).exec_busy hb, (write 3).exec_busy hb, (write 4).exec_busy hb⟩
  · have decoded (i : Fin 5) := decode_busWrite (isAligned_hOffset i) v
    exact ⟨decoded 0, decoded 1, decoded 2, decoded 3, decoded 4⟩

/-- Settles O14, slot by slot. -/
theorem windowWritesMarkValid : Obligations.WindowWritesMarkValid := by
  intro v s
  refine ⟨fun hb => ?_, fun hb => ?_⟩
  · have idle (j : Fin 16) := (IdleWrite.window j v).exec_idle hb
    exact ⟨idle 0, idle 1, idle 2, idle 3, idle 4, idle 5, idle 6, idle 7, idle 8, idle 9, idle 10, idle 11, idle 12, idle 13,
      idle 14, idle 15⟩
  · have busy (j : Fin 16) := (IdleWrite.window j v).exec_busy hb
    exact ⟨busy 0, busy 1, busy 2, busy 3, busy 4, busy 5, busy 6, busy 7, busy 8, busy 9, busy 10, busy 11, busy 12, busy 13,
      busy 14, busy 15⟩

/-- Marking slot i valid sets its bit and keeps the others (R24, R140). -/
theorem getLsbD_markValid (mvalid : BitVec 16) (i j : Fin 16) :
    (markValid mvalid i).getLsbD j = (mvalid.getLsbD j || i == j) := by
  rw [markValid, BitVec.getLsbD_or, ← BitVec.twoPow_eq, BitVec.getLsbD_twoPow, decide_eq_true i.isLt, Bool.true_and,
    beq_eq_decide]
  simp only [Fin.val_inj]

/-- A write of slot i overwrites it and keeps the others (R140). -/
theorem getElem_setWindow_msg (b : Block) (i j : Fin 16) (v : Word) :
    (b.setWindow i v).msg[j] = if i = j then v else b.msg[j] := by
  simp [Vector.getElem_set, Fin.ext_iff]

/-- Settles O15, by induction on the list of writes, oldest first: a later write of the slot is found before this one. -/
theorem windowLoadInAnyOrder : Obligations.WindowLoadInAnyOrder := by
  intro ws
  induction ws with
  | nil => exact fun s _ => ⟨s, rfl, rfl, fun j => ⟨by simp, rfl⟩⟩
  | cons w ws ih =>
    intro s hb
    obtain ⟨t, hrun, hframe, hslots⟩ := ih { s with block := s.block.setWindow w.1 w.2 } hb
    refine ⟨t, ?_, hframe, fun j => ?_⟩
    · rw [List.map_cons, execAll, (IdleWrite.window w.1 w.2).exec_idle hb]
      exact hrun
    · obtain ⟨hvalid, hmsg⟩ := hslots j
      constructor
      · rw [hvalid, Block.setWindow_mvalid, getLsbD_markValid, List.any_cons, Bool.or_assoc]
      · rw [hmsg, getElem_setWindow_msg, List.reverse_cons, List.find?_append]
        cases ws.reverse.find? (fun x => x.1 == j) with
        | some x => simp
        | none => by_cases h : w.1 = j <;> simp [h]

end Sys2Proof.Machine
end

section
/-! PROOFS. The reads of CMD, H and MSG, and STATUS (spec/41_commands.md R131, R137, R139, R141 to R143). -/

namespace Sys2Proof.Machine

/-- Settles O10, register by register. -/
theorem digestReadsReturnRegister : Obligations.DigestReadsReturnRegister := by
  intro s
  have decoded (i : Fin 5) := decode_busRead (isAligned_hOffset i)
  exact ⟨decoded 0, rfl, decoded 1, rfl, decoded 2, rfl, decoded 3, rfl, decoded 4, rfl⟩

/-- Settles O12, slot by slot. -/
theorem windowReadsWhenIdle : Obligations.WindowReadsWhenIdle := by
  intro s hb
  have idle (j : Fin 16) := readWindow_idle j hb
  exact ⟨idle 0, idle 1, idle 2, idle 3, idle 4, idle 5, idle 6, idle 7, idle 8, idle 9, idle 10, idle 11, idle 12, idle 13,
    idle 14, idle 15⟩

/-- The fields of STATUS side by side, with 0 between them (R28). -/
theorem Block.status_eq_append (b : Block) :
    b.status = b.mvalid ++ 0#5 ++ BitVec.ofBool b.errIncomplete ++ BitVec.ofBool b.errBusy ++ BitVec.ofBool b.errCmd ++ 0#7 ++
      BitVec.ofBool b.busy := by
  refine BitVec.eq_of_getLsbD_eq fun k hk => ?_
  change _ = BitVec.getLsbD (w := 16 + 5 + 1 + 1 + 1 + 7 + 1) _ k
  simp only [Block.status, flagWord, BitVec.getLsbD_append]
  interval_cases k <;> simp

/-- Settles O16: STATUS_R answers the word whose fields status_eq_append lays out. -/
theorem statusReadLayout : Obligations.StatusReadLayout :=
  ⟨decode_busRead (by decide), fun s => ⟨rfl, s.block.status_eq_append⟩⟩

/-- A STATUS write changes the three error bits, each as its bit of the data says (R142). -/
theorem Block.clearErrors_eq (b : Block) (v : Word) :
    b.clearErrors v =
      { b with
        errCmd := b.errCmd && !v.getLsbD 8
        errBusy := b.errBusy && !v.getLsbD 9
        errIncomplete := b.errIncomplete && !v.getLsbD 10 } := by
  have hframe := b.clearErrors_agreesButErrors v
  simpa only [Block.AgreesButErrors, Block.clearErrors_errCmd, Block.clearErrors_errBusy, Block.clearErrors_errIncomplete]
    using hframe

/-- Settles O17: STATUS_W is clearErrors, idle or busy. -/
theorem statusWriteOneToClear : Obligations.StatusWriteOneToClear := by
  intro v s
  have hexec : exec (.statusW v) s = .next { s with block := s.block.clearErrors v } := rfl
  exact ⟨decode_busWrite (by decide) v, by rw [hexec, Block.clearErrors_eq]⟩

/-- Settles O18: CMD_R answers 0 whatever the state holds. -/
theorem commandReadReturnsZero : Obligations.CommandReadReturnsZero :=
  ⟨decode_busRead (by decide), fun _ => rfl⟩

/-- Settles O21, by the cases of exec. -/
theorem everyInstructionAnswersNext : Obligations.EveryInstructionAnswersNext := exec_answers_next

end Sys2Proof.Machine
end

section
/-! PROOFS. COMPRESS runs to its fold whatever host accesses and turns come between (spec/41_commands.md R136; spec/43_compression_rounds.md
R199; spec/70_reset_and_hazards.md R259). -/

namespace Sys2Proof.Machine

variable {b c : Block} {s t : State} {k n : Nat}

/-- An access the port admits performs an instruction (R54, R85). -/
theorem accessInstr_of_isAdmitted {a : Access} (ha : (HostItem.access a).isAdmitted = true) : ∃ i, accessInstr a = .ok i := by
  obtain ⟨o, bits, dir⟩ := a
  obtain ⟨rfl, ho⟩ : bits = 32 ∧ isAligned o = true := by simpa [HostItem.isAdmitted] using ha
  have decoded {i : Instr} (h : decode (.bus ⟨o, 32, dir⟩) = .ok i) : ∃ j, accessInstr ⟨o, 32, dir⟩ = .ok j := by
    obtain ⟨j, hj, -⟩ := accessInstr_toAccess h
    exact ⟨j, hj⟩
  cases dir with
  | read => exact decoded (decode_busRead ho)
  | write v => exact decoded (decode_busWrite ho v)

theorem Block.AgreesButErrors.trans {d : Block} (hc : b.AgreesButErrors c) (hd : c.AgreesButErrors d) : b.AgreesButErrors d := by
  rw [Block.AgreesButErrors, hd, hc]

/-- The error bits play no part in a round. -/
theorem Block.AgreesButErrors.engineRound (hc : b.AgreesButErrors c) : b.engineRound.AgreesButErrors c.engineRound := by
  rw [hc]
  rfl

/-- The error bits play no part in the fold. -/
theorem Block.AgreesButErrors.fold (hc : b.AgreesButErrors c) : b.fold.AgreesButErrors c.fold := by
  rw [hc]
  rfl

/-- Out of reset, with only admitted items pending, the engine has done k rounds of the COMPRESS started on b; the host may have changed
error bits meanwhile. -/
structure State.Runs (s : State) (b : Block) (k : Nat) : Prop where
  inReset : s.inReset = false
  admitted : ∀ x ∈ s.pending, x.isAdmitted = true
  round_le : k ≤ 80
  block : (Block.engineRound^[k] b.start).AgreesButErrors s.block

theorem State.Runs.rnd (hs : s.Runs b k) : s.block.rnd.toNat = k := by
  have hk := hs.round_le
  rw [hs.block, engineRound_iterate_rnd rfl, BitVec.toNat_ofNat]
  omega

theorem State.Runs.busy (hs : s.Runs b k) : s.block.busy = true := by
  rw [hs.block, engineRound_iterate_busy, Block.start_busy]

theorem State.Runs.h (hs : s.Runs b k) : s.block.h = b.h := by
  rw [hs.block, engineRound_iterate rfl hs.round_le, Block.start_h]

/-- What a running state needs is kept where the block is and no new item is pending. -/
theorem State.Runs.congr (hs : s.Runs b k) (hr : t.inReset = s.inReset) (hp : t.pending ⊆ s.pending) (hb : t.block = s.block) :
    t.Runs b k :=
  ⟨hr.trans hs.inReset, fun x hx => hs.admitted x (hp hx), hs.round_le, hb ▸ hs.block⟩

/-- While busy an instruction changes only error bits, so the run goes on from where it was (R27). -/
theorem State.Runs.of_exec {i : Instr} (hs : s.Runs b k) (h : exec i s = .next t) : t.Runs b k := by
  obtain ⟨hr, -, hp, -⟩ := exec_surroundings h
  exact ⟨hr.trans hs.inReset, hp ▸ hs.admitted, hs.round_le, hs.block.trans (busyAccessChangesOnlyErrorBits i s t hs.busy h)⟩

/-- At the host's turn a turn is used and an item is pending. -/
theorem State.Runs.of_hostTurn (hs : s.Runs b k) (he : s.engineTurn = false) :
    s.schedule.tail.length < s.schedule.length ∧ ∃ x rest, s.pending = x :: rest := by
  cases hq : s.schedule with
  | nil => simp [State.engineTurn, hq, hs.busy] at he
  | cons agent l =>
    cases hp : s.pending with
    | nil => cases agent <;> simp [State.engineTurn, hp, hq, hs.busy] at he
    | cons x rest => exact ⟨by simp, x, rest, rfl⟩

/-- A running state's host step is admitted, uses a turn, and does not disturb the run. -/
theorem State.Runs.step_host (hs : s.Runs b k) (he : s.engineTurn = false) :
    ∃ t, step s = .next t ∧ t.Runs b k ∧ t.schedule.length < s.schedule.length := by
  obtain ⟨hlt, x, rest, hp⟩ := hs.of_hostTurn he
  have hx : x.isAdmitted = true := hs.admitted x (by simp [hp])
  have hschedule {u v : State} {i : Instr} (hv : exec i u = .next v) (hu : u.schedule = s.useTurn.schedule) :
      v.schedule.length < s.schedule.length := by
    obtain ⟨-, hv, -⟩ := exec_surroundings hv
    rwa [hv, hu, State.useTurn_schedule, if_pos hs.busy]
  cases x with
  | access a =>
    obtain ⟨i, hi⟩ := accessInstr_of_isAdmitted hx
    obtain ⟨t, ht⟩ := exec_answers_next i { s.useTurn with pending := rest }
    have hrun : { s.useTurn with pending := rest }.Runs b k := hs.congr (by simp) (by simp [hp]) (by simp)
    refine ⟨t.keepRead a.dir, ?_, (hrun.of_exec ht).congr (by simp) (by simp) (by simp), ?_⟩
    · simp only [step_access hs.inReset he hp, runAccess, hi, ht, andThen]
    · rw [State.keepRead_schedule]
      exact hschedule ht rfl
  | poll off mask val =>
    obtain ⟨i, hi⟩ := accessInstr_of_isAdmitted (a := .busRead off) (by simpa [HostItem.isAdmitted, Access.busRead] using hx)
    obtain ⟨t, ht⟩ := exec_answers_next i s.useTurn
    have hrun : s.useTurn.Runs b k := hs.congr (by simp) (by simp) (by simp)
    have hpt : t.pending = .poll off mask val :: rest := by
      obtain ⟨-, -, hpt, -⟩ := exec_surroundings ht
      rw [hpt, State.useTurn_pending, hp]
    refine ⟨t.endPoll mask val rest, ?_, (hrun.of_exec ht).congr (by simp) ?_ (by simp), ?_⟩
    · simp only [step_poll hs.inReset he hp, runPoll, hi, ht, andThen]
    · rw [State.endPoll_pending, hpt]
      split <;> simp
    · rw [State.endPoll_schedule]
      exact hschedule ht rfl
  | resetAssert => cases hx
  | resetDeassert => cases hx

/-- A running state's engine step is the next round, or after eighty rounds the fold. -/
theorem State.Runs.step_engine (hs : s.Runs b k) (he : s.engineTurn = true) :
    ∃ t, step s = .next t ∧ t.schedule.length ≤ s.schedule.length ∧
      (t.Runs b (k + 1) ∨ (k = 80 ∧ (Block.engineRound^[80] b.start).fold.AgreesButErrors t.block)) := by
  obtain ⟨-, hstep⟩ := stepRunsEngineOnItsTurn
  have hrnd := hs.rnd
  obtain ⟨hle, h⟩ | ⟨hrnd', h⟩ | ⟨hgt, -⟩ := engineStep_cases (s := { s with schedule := s.schedule.tail })
  · have hk : k ≤ 79 := hrnd ▸ hle
    refine ⟨_, (hstep s hs.inReset he).trans h, by simp, .inl ⟨hs.inReset, hs.admitted, by omega, ?_⟩⟩
    rw [Function.iterate_succ_apply']
    exact hs.block.engineRound
  · obtain rfl : 80 = k := by rw [← hrnd, hrnd']; rfl
    exact ⟨_, (hstep s hs.inReset he).trans h, by simp, .inr ⟨rfl, hs.block.fold⟩⟩
  · have hk : 80 < k := hrnd ▸ hgt
    exact absurd hs.round_le (by omega)

/-- The COMPRESS started on b folds in exactly n steps: until then BUSY is 1 and H is as at the start (R136). -/
structure State.FoldsIn (s : State) (b : Block) (n : Nat) : Prop where
  fold : ∃ u, steps n s = .next u ∧ (Block.engineRound^[80] b.start).fold.AgreesButErrors u.block
  before : ∀ j, j < n → ∃ v, steps j s = .next v ∧ v.block.busy = true ∧ v.block.h = b.h

/-- A step of a running state puts off the fold by one. -/
theorem State.Runs.foldsIn_succ (hs : s.Runs b k) (h : step s = .next t) (ht : t.FoldsIn b n) : s.FoldsIn b (n + 1) := by
  constructor
  · rw [steps_succ n h]
    exact ht.fold
  · intro j hj
    cases j with
    | zero => exact ⟨s, rfl, hs.busy, hs.h⟩
    | succ j =>
      rw [steps_succ j h]
      exact ht.before j (by omega)

/-- From a running state the fold comes after the rounds left and at most one more step for each turn listed (R136, R259). -/
theorem State.Runs.foldsIn (hs : s.Runs b k) : ∃ n, 81 ≤ k + n ∧ k + n ≤ 81 + s.schedule.length ∧ s.FoldsIn b n := by
  generalize hm : 80 - k + s.schedule.length = m
  induction m using Nat.strong_induction_on generalizing s k with
  | _ m ih =>
    have hk := hs.round_le
    cases he : s.engineTurn with
    | false =>
      obtain ⟨t, hstep, ht, hlen⟩ := hs.step_host he
      obtain ⟨n, hlo, hhi, hn⟩ := ih _ (by omega) ht rfl
      exact ⟨n + 1, by omega, by omega, hs.foldsIn_succ hstep hn⟩
    | true =>
      obtain ⟨t, hstep, hlen, ht | ⟨rfl, ht⟩⟩ := hs.step_engine he
      · have hk' := ht.round_le
        obtain ⟨n, hlo, hhi, hn⟩ := ih _ (by omega) ht rfl
        exact ⟨n + 1, by omega, by omega, hs.foldsIn_succ hstep hn⟩
      · refine ⟨1, by omega, by omega, ⟨t, by rw [steps_succ 0 hstep]; rfl, ht⟩, fun j hj => ?_⟩
        obtain rfl : j = 0 := by omega
        exact ⟨s, rfl, hs.busy, hs.h⟩

/-- The window after the fold is w[64..79] (R175). -/
theorem fold_msg_of_start (b : Block) (j : Fin 16) :
    (Block.engineRound^[80] b.start).fold.msg[j] = scheduleWord b.msg (64 + j) := by
  have hslot : (64 + j.val) % 16 = j := by omega
  rw [engineRound_iterate (b := b.start) rfl le_rfl, ← windowAfter_getElem b.msg (n := 80) (r := 64 + j) (by omega) (by omega)]
  simp only [hslot]
  rfl

/-- Settles O40, by foldsIn from the state right after the start. -/
theorem compressReachesItsFold : Obligations.CompressReachesItsFold := by
  intro s t hr hb hv hadm h
  rw [exec_compress_start hb hv] at h
  injection h with h
  subst h
  have hrun : { s with block := s.block.start }.Runs s.block 0 := ⟨hr, hadm, by omega, .refl _⟩
  obtain ⟨n, hlo, hhi, ⟨u, hu, hagree⟩, hbefore⟩ := hrun.foldsIn
  refine ⟨n, by omega, by simpa using hhi, ⟨u, hu, ?_, ?_, fun j => ?_, ?_⟩, hbefore⟩
  · rw [hagree, Block.fold_busy]
  · rw [hagree, fold_h_of_start]
  · rw [← fold_msg_of_start, hagree]
  · rw [hagree, Block.fold_mvalid]

end Sys2Proof.Machine
end

section
/-! PROOFS. The schedule expander (spec/42_schedule_expander.md): the schedule is linear over xor (R177), and the engine's rounds from
RND = 0 keep its latest sixteen words in the window (R174) and are rounds over it (R176). -/

namespace Sys2Proof.Machine

/-- Settles O32: the block's own words, then the recurrence, one lemma for each. -/
theorem scheduleRecurrence : Obligations.ScheduleRecurrence :=
  fun m => ⟨fun t => scheduleWord_of_lt m t.isLt, fun _ h _ => scheduleWord_recurrence m h⟩

/-- Rotation distributes over xor, since it only moves bits (R14). -/
theorem rotl_xor (x y : Word) {n : Nat} (hn : n ≤ 31) : rotl (x ^^^ y) n = rotl x n ^^^ rotl y n := by
  refine BitVec.eq_of_getLsbD_eq fun k hk => ?_
  simp only [BitVec.getLsbD_xor, getLsbD_rotl _ hn hk]

/-- The schedule is linear over xor, at every index (R177). -/
theorem scheduleWord_xor {m m' m'' : Vector Word 16} (h : ∀ j : Fin 16, m''[j] = m[j] ^^^ m'[j]) (t : Nat) :
    scheduleWord m'' t = scheduleWord m t ^^^ scheduleWord m' t := by
  induction t using Nat.strong_induction_on with
  | _ t ih =>
    by_cases ht : t < 16
    · rw [scheduleWord_of_lt m'' ht, scheduleWord_of_lt m ht, scheduleWord_of_lt m' ht]
      exact h ⟨t, ht⟩
    · have hle : 16 ≤ t := by omega
      simp only [scheduleWord_recurrence _ hle, ← rotl_xor _ _ (show 1 ≤ 31 by decide), ih (t - 3) (by omega),
        ih (t - 8) (by omega), ih (t - 14) (by omega), ih (t - 16) (by omega)]
      congr 1
      ac_rfl

theorem scheduleWord_zero_block (t : Nat) : scheduleWord (Vector.replicate 16 0#32) t = 0#32 := by
  have h : ∀ j : Fin 16, (Vector.replicate 16 0#32)[j] = (Vector.replicate 16 0#32)[j] ^^^ (Vector.replicate 16 0#32)[j] := by
    simp
  rw [scheduleWord_xor h, BitVec.xor_self]

/-- The first sixteen schedule words of a block of equal words are that word (R171). -/
theorem scheduleWord_replicate_of_lt (x : Word) {t : Nat} (h : t < 16) : scheduleWord (Vector.replicate 16 x) t = x := by
  rw [scheduleWord_of_lt _ h, Vector.getElem_replicate]

/-- A block of equal words has w[16] = w[17] = w[18] = 0: each is the rotated xor of four equal words (R177). -/
theorem scheduleWord_replicate_eq_zero (x : Word) {t : Nat} (hlo : 16 ≤ t) (hhi : t ≤ 18) :
    scheduleWord (Vector.replicate 16 x) t = 0#32 := by
  have hrot : rotl 0#32 1 = 0#32 := by decide
  rw [scheduleWord_recurrence _ hlo, scheduleWord_replicate_of_lt x (t := t - 3) (by omega),
    scheduleWord_replicate_of_lt x (t := t - 8) (by omega), scheduleWord_replicate_of_lt x (t := t - 14) (by omega),
    scheduleWord_replicate_of_lt x (t := t - 16) (by omega), BitVec.xor_self, BitVec.zero_xor, BitVec.xor_self, hrot]

/-- A block of words x has w[19] = ROTL(x, 1): w[16] is 0, and the xor of three equal words is the word (R177). -/
theorem scheduleWord_replicate_nineteen (x : Word) : scheduleWord (Vector.replicate 16 x) 19 = rotl x 1 := by
  rw [scheduleWord_recurrence _ (by decide), scheduleWord_replicate_eq_zero x (t := 19 - 3) (by decide) (by decide),
    scheduleWord_replicate_of_lt x (t := 19 - 8) (by decide), scheduleWord_replicate_of_lt x (t := 19 - 14) (by decide),
    scheduleWord_replicate_of_lt x (t := 19 - 16) (by decide), BitVec.zero_xor, BitVec.xor_self, BitVec.zero_xor]

/-- Settles O33: linearity by induction along the recurrence; the zero block is the xor of itself with itself. -/
theorem scheduleIsXorLinear : Obligations.ScheduleIsXorLinear := by
  have hrot : rotl 0xFFFFFFFF#32 1 = 0xFFFFFFFF#32 := by decide
  exact ⟨fun _ _ _ t h _ => scheduleWord_xor h t, fun t _ => scheduleWord_zero_block t,
    scheduleWord_replicate_eq_zero _ (by decide) (by decide), scheduleWord_replicate_eq_zero _ (by decide) (by decide),
    scheduleWord_replicate_eq_zero _ (by decide) (by decide), (scheduleWord_replicate_nineteen _).trans hrot⟩

/-- After k rounds from RND = 0 slot r mod 16 holds w[r], for each of the sixteen latest r (R174). -/
theorem engineRound_iterate_msg_getElem {b : Block} (h0 : b.rnd = 0#7) {k r : Nat} (hk : k ≤ 80) (hlt : r < max k 16)
    (hge : max k 16 ≤ r + 16) : (Block.engineRound^[k] b).msg[r % 16] = scheduleWord b.msg r := by
  rw [engineRound_iterate h0 hk]
  exact windowAfter_getElem b.msg hlt hge

/-- Settles O34: an index that is the largest for its slot is among the latest sixteen, or 16 more would be larger. -/
theorem windowHoldsLatestScheduleWords : Obligations.WindowHoldsLatestScheduleWords := by
  intro b h0 t ht
  have hafter : ∀ r, r ≤ max t 15 → max t 15 < r + 16 → (Block.engineRound^[t + 1] b).msg[r % 16] = scheduleWord b.msg r :=
    fun r _ _ => engineRound_iterate_msg_getElem h0 (by omega) (by omega) (by omega)
  refine ⟨?latestOfSlot, fun _ s _ _ => hafter s (by omega) (by omega), fun h16 => ?readByRound⟩
  case latestOfSlot =>
    rintro ⟨j, hj⟩ s hs hslot hmax
    obtain rfl : s % 16 = j := hslot
    have hlatest : max t 15 < s + 16 := by
      by_contra hle
      have hlarger := hmax (s + 16) (by omega) (by simp)
      omega
    exact hafter s hs hlatest
  case readByRound =>
    have hbefore : ∀ r, r < t → t ≤ r + 16 → (Block.engineRound^[t] b).msg[r % 16] = scheduleWord b.msg r :=
      fun r _ _ => engineRound_iterate_msg_getElem h0 (by omega) (by omega) (by omega)
    have hslot : t % 16 = (t - 16) % 16 := by omega
    simp only [hslot]
    exact ⟨hbefore (t - 3) (by omega) (by omega), hbefore (t - 8) (by omega) (by omega),
      hbefore (t - 14) (by omega) (by omega), hbefore (t - 16) (by omega) (by omega)⟩

/-- Settles O35, from the block that t rounds leave. -/
theorem windowDeliversSchedule : Obligations.WindowDeliversSchedule := by
  intro b h0 t ht
  rw [engineRound_iterate h0 ht]
  exact ⟨fun _ => windowForRound_getElem b.msg t, rfl, rfl⟩

end Sys2Proof.Machine
end

section
/-! PROOFS. The round functions and constants: which of them a round uses, and their bits (spec/43_compression_rounds.md R190 to
R195). -/

namespace Sys2Proof.Machine

variable {t k : Nat}

/-- Rounds 0 to 19 use choose (R190, R191). -/
theorem roundFn_choose (ht : t ≤ 19) : roundFn t = choose := by
  funext b c d
  rw [roundFn, if_pos ht]

/-- Rounds 20 to 39 and 60 to 79 use parity (R190, R192, R194). -/
theorem roundFn_parity (ht : 20 ≤ t ∧ t ≤ 39 ∨ 60 ≤ t) : roundFn t = parity := by
  funext b c d
  rw [roundFn, if_neg (by omega)]
  obtain ⟨-, h39⟩ | h60 := ht
  · rw [if_pos h39]
  · rw [if_neg (by omega), if_neg (by omega)]

/-- Rounds 40 to 59 use majority (R190, R193). -/
theorem roundFn_majority (hlo : 40 ≤ t) (hhi : t ≤ 59) : roundFn t = majority := by
  funext b c d
  rw [roundFn, if_neg (by omega), if_neg (by omega), if_pos hhi]

theorem getLsbD_choose (b c d : Word) (hk : k < 32) :
    (choose b c d).getLsbD k = if b.getLsbD k then c.getLsbD k else d.getLsbD k := by
  rw [choose, BitVec.getLsbD_or, BitVec.getLsbD_and, BitVec.getLsbD_and, BitVec.getLsbD_not]
  cases b.getLsbD k <;> simp [hk]

theorem getLsbD_parity (b c d : Word) (k : Nat) :
    (parity b c d).getLsbD k = decide (((b.getLsbD k).toNat + (c.getLsbD k).toNat + (d.getLsbD k).toNat) % 2 = 1) := by
  rw [parity, BitVec.getLsbD_xor, BitVec.getLsbD_xor]
  cases b.getLsbD k <;> cases c.getLsbD k <;> cases d.getLsbD k <;> rfl

theorem getLsbD_majority (b c d : Word) (k : Nat) :
    (majority b c d).getLsbD k = decide (2 ≤ (b.getLsbD k).toNat + (c.getLsbD k).toNat + (d.getLsbD k).toNat) := by
  rw [majority, BitVec.getLsbD_or, BitVec.getLsbD_or, BitVec.getLsbD_and, BitVec.getLsbD_and, BitVec.getLsbD_and]
  cases b.getLsbD k <;> cases c.getLsbD k <;> cases d.getLsbD k <;> rfl

/-- Words that share no bit have the same or and xor. -/
theorem or_eq_xor_of_and_eq_zero {x y : Word} (h : x &&& y = 0#32) : x ||| y = x ^^^ y := by
  refine BitVec.eq_of_getLsbD_eq fun k _ => ?_
  have hbit : (x.getLsbD k && y.getLsbD k) = false := by rw [← BitVec.getLsbD_and, h, BitVec.getLsbD_zero]
  rw [BitVec.getLsbD_or, BitVec.getLsbD_xor]
  revert hbit
  cases x.getLsbD k <;> cases y.getLsbD k <;> decide

/-- The two terms of choose share no bit: one takes bits where b has 1, the other where b has 0 (R191). -/
theorem choose_terms_disjoint (b c d : Word) : (b &&& c) &&& (~~~b &&& d) = 0#32 := by
  refine BitVec.eq_of_getLsbD_eq fun k _ => ?_
  rw [BitVec.getLsbD_and, BitVec.getLsbD_and, BitVec.getLsbD_and, BitVec.getLsbD_not, BitVec.getLsbD_zero]
  cases b.getLsbD k <;> simp

theorem choose_allOnes (c d : Word) : choose 0xFFFFFFFF#32 c d = c := by
  have hones : 0xFFFFFFFF#32 = BitVec.allOnes 32 := by decide
  rw [choose, hones, BitVec.allOnes_and, BitVec.not_allOnes, BitVec.zero_and, BitVec.or_zero]

theorem choose_zero (c d : Word) : choose 0#32 c d = d := by
  rw [choose, BitVec.zero_and, BitVec.not_zero, BitVec.allOnes_and, BitVec.zero_or]

/-- Majority with its ors replaced by xors: where all three pairwise terms are 1, so is their xor (R193). -/
theorem majority_eq_xor (b c d : Word) : majority b c d = (b &&& c) ^^^ (b &&& d) ^^^ (c &&& d) := by
  refine BitVec.eq_of_getLsbD_eq fun k _ => ?_
  simp only [getLsbD_majority, BitVec.getLsbD_xor, BitVec.getLsbD_and]
  cases b.getLsbD k <;> cases c.getLsbD k <;> cases d.getLsbD k <;> rfl

/-- Two swaps generate every permutation of majority's inputs (R193). -/
theorem majority_swap_left (b c d : Word) : majority b c d = majority c b d := by
  rw [majority, majority, BitVec.and_comm b c, BitVec.or_assoc, BitVec.or_assoc, BitVec.or_comm (b &&& d)]

theorem majority_swap_right (b c d : Word) : majority b c d = majority b d c := by
  rw [majority, majority, BitVec.or_comm (b &&& c), BitVec.and_comm c d]

/-- Settles O27: the tests of f_t and K_t, range by range. -/
theorem roundFunctionAndConstantRanges : Obligations.RoundFunctionAndConstantRanges := by
  intro t b c d _
  refine ⟨fun hhi => ?_, fun hlo hhi => ?_, fun hlo hhi => ?_, fun hlo => ?_⟩
  · rw [roundFn_choose hhi, roundConst, if_pos hhi]
    exact ⟨rfl, rfl⟩
  · rw [roundFn_parity (.inl ⟨hlo, hhi⟩), roundConst, if_neg (by omega), if_pos hhi]
    exact ⟨rfl, rfl⟩
  · rw [roundFn_majority hlo hhi, roundConst, if_neg (by omega), if_neg (by omega), if_pos hhi]
    exact ⟨rfl, rfl⟩
  · rw [roundFn_parity (.inr hlo), roundConst, if_neg (by omega), if_neg (by omega), if_neg (by omega)]
    exact ⟨rfl, rfl⟩

/-- Settles O28: the xor and + forms follow from the two terms sharing no bit. -/
theorem chooseSelectsBits : Obligations.ChooseSelectsBits := by
  have hfirst : roundFn 0 = choose := roundFn_choose (by decide)
  unfold Obligations.ChooseSelectsBits
  rw [hfirst]
  refine ⟨fun b c d _ => getLsbD_choose b c d, fun b c d => ?_, fun c d => ⟨choose_allOnes c d, choose_zero c d⟩,
    fun t b c d ht => by rw [roundFn_choose ht], by decide⟩
  have hdisjoint := choose_terms_disjoint b c d
  exact ⟨hdisjoint, or_eq_xor_of_and_eq_zero hdisjoint, (BitVec.add_eq_or_of_and_eq_zero _ _ hdisjoint).symm⟩

/-- Settles O29: two equal inputs cancel in the xor. -/
theorem parityCountsOddBits : Obligations.ParityCountsOddBits := by
  have hround {t : Nat} (ht : (20 ≤ t ∧ t ≤ 39) ∨ (60 ≤ t ∧ t ≤ 79)) : roundFn t = parity :=
    roundFn_parity (ht.imp_right And.left)
  refine ⟨fun t b c d k ht _ => ?_, fun t x y ht => ?_, by decide, by decide⟩
  · rw [hround ht, getLsbD_parity]
  · rw [hround ht, parity, parity, parity, BitVec.xor_self, BitVec.zero_xor, xor_xor_cancel_comm, BitVec.xor_assoc, BitVec.xor_self,
      BitVec.xor_zero]
    exact ⟨rfl, rfl, rfl⟩

/-- Settles O30, with one lemma for each form of majority. -/
theorem majorityCountsBits : Obligations.MajorityCountsBits := by
  refine ⟨fun t b c d k hlo hhi _ => ?_, fun t b c d hlo hhi => ?_, by decide⟩
  · rw [roundFn_majority hlo hhi, getLsbD_majority]
  · rw [roundFn_majority hlo hhi]
    exact ⟨majority_eq_xor b c d, majority_swap_left b c d, majority_swap_right b c d⟩

end Sys2Proof.Machine
end

section
/-! PROOFS. The engine's steps, one by one, and the whole COMPRESS they make when no turn is the host's (spec/43_compression_rounds.md
R196 to R199). -/

namespace Sys2Proof.Machine

variable {s : State} {k : Nat}

/-- While RND is at most 79 the engine's step is a round (R196). -/
theorem engineStep_round (h : s.block.rnd.toNat ≤ 79) : engineStep s = .next { s with block := s.block.engineRound } := by
  rw [engineStep, if_pos h]

/-- At RND = 80 the engine's step is the fold (R198). -/
theorem engineStep_fold (h : s.block.rnd = 80#7) : engineStep s = .next { s with block := s.block.fold } := by
  have hrnd : s.block.rnd.toNat = 80 := by rw [h]; rfl
  rw [engineStep, if_neg (by omega), if_pos hrnd]

/-- Settles O24: the round of R196 with its window and its counter written out. -/
theorem engineRoundStep : Obligations.EngineRoundStep := by
  rintro s _ - rfl ht msg hmsg
  have hwindow : windowForRound s.block.msg s.block.rnd.toNat = msg := hmsg.symm
  have hrnd : BitVec.ofNat 7 (s.block.rnd.toNat + 1) = s.block.rnd + 1#7 := by
    rw [BitVec.ofNat_add, BitVec.ofNat_toNat, BitVec.setWidth_eq]
  rw [engineStep_round ht, Block.engineRound, hwindow, hrnd]
  rfl

/-- Settles O25: the fold's sums are R198's. -/
theorem engineFoldStep : Obligations.EngineFoldStep := fun _ _ => engineStep_fold

/-- The recurrence of R199 from the seeded registers is the model's rounds. -/
theorem eq_rounds_of_recurrence {w : Nat → Word} {x : Nat → Work} {n : Nat} (hx : ∀ t, t < n → x (t + 1) = (x t).round t (w t))
    (hk : k ≤ n) : x k = rounds w k (x 0) := by
  induction k with
  | zero => rfl
  | succ k ih => rw [hx k hk, rounds_succ, ih (by omega)]

/-- Settles O36, by the recurrence of R199 up to its eightieth round. -/
theorem compressIsFoldOfEightyRounds : Obligations.CompressIsFoldOfEightyRounds := by
  intro h m x hseed hround
  have hx : x 80 = rounds (scheduleWord m) 80 (Work.seed h) := by
    rw [eq_rounds_of_recurrence (n := 80) (fun t ht => hround t (by omega)) le_rfl, hseed]
    rfl
  rw [compress_eq, ← hx]
  rfl

/-- While busy with no turn listed, every step is the engine's (R58, R259). -/
theorem step_of_schedule_nil (hr : s.inReset = false) (hb : s.block.busy = true) (hq : s.schedule = []) : step s = engineStep s := by
  obtain ⟨hturn, hstep⟩ := stepRunsEngineOnItsTurn
  rw [hstep s hr ((hturn s).mpr ⟨hb, .inl hq⟩), hq, List.tail_nil, ← hq]

theorem step_after_rounds (hr : s.inReset = false) (hb : s.block.busy = true) (hq : s.schedule = []) (k : Nat) :
    step { s with block := Block.engineRound^[k] s.block } = engineStep { s with block := Block.engineRound^[k] s.block } :=
  step_of_schedule_nil hr ((engineRound_iterate_busy s.block k).trans hb) hq

/-- The first 80 steps after a start with no turn listed are the rounds, in order, and touch nothing but the block (R197). -/
theorem steps_rounds (hr : s.inReset = false) (hb : s.block.busy = true) (hq : s.schedule = []) (h0 : s.block.rnd = 0#7)
    (hk : k ≤ 80) : steps k s = .next { s with block := Block.engineRound^[k] s.block } := by
  induction k with
  | zero => rfl
  | succ k ih =>
    have hrnd : (Block.engineRound^[k] s.block).rnd.toNat ≤ 79 := by
      rw [engineRound_iterate_rnd h0, BitVec.toNat_ofNat]
      omega
    have hstep := (step_after_rounds hr hb hq k).trans (engineStep_round hrnd)
    rw [steps_add k 1 (ih (by omega)), steps_succ 0 hstep, Function.iterate_succ_apply']
    rfl

/-- After the rounds RND is 80, so step 81 is the fold (R197, R198). -/
theorem steps_fold (hr : s.inReset = false) (hb : s.block.busy = true) (hq : s.schedule = []) (h0 : s.block.rnd = 0#7) :
    steps 81 s = .next { s with block := (Block.engineRound^[80] s.block).fold } := by
  have hstep := (step_after_rounds hr hb hq 80).trans (engineStep_fold (engineRound_iterate_rnd h0 80))
  exact (steps_add 80 1 (steps_rounds hr hb hq h0 le_rfl)).trans (steps_succ 0 hstep)

/-- Settles O41: eighty rounds from the start, then the fold. -/
theorem compressIsEightyOneEngineSteps : Obligations.CompressIsEightyOneEngineSteps := by
  intro s t hr hb hv hq h
  rw [exec_compress_start hb hv] at h
  injection h with h
  subst h
  have hrounds {k : Nat} (hk : k ≤ 80) := steps_rounds (s := { s with block := s.block.start }) hr rfl hq rfl hk
  have hfold := steps_fold (s := { s with block := s.block.start }) hr rfl hq rfl
  exact ⟨fun k hk => ⟨_, hrounds hk, engineRound_iterate_busy s.block.start k, engineRound_iterate_rnd rfl k, rfl⟩,
    ⟨_, hfold, Block.fold_busy _, rfl⟩⟩

end Sys2Proof.Machine
end

section
/-! PROOFS. The interface errors: which accesses raise a bit, which clear it, and that a block with nothing to do holds its state
(spec/60_exceptions.md R222 to R227, R234; spec/41_commands.md R134). -/

namespace Sys2Proof.Machine

variable {i : Instr} {f : Block → Block} {b : Block} {e : IfaceError} {s t : State}

/-- The bit of the named error (R28). -/
def Block.error (b : Block) : IfaceError → Bool
  | .cmd => b.errCmd
  | .busy => b.errBusy
  | .incomplete => b.errIncomplete

/-- The place of the named error's bit in STATUS (R28). -/
def IfaceError.statusBit : IfaceError → Nat
  | .cmd => 8
  | .busy => 9
  | .incomplete => 10

/-- Raising an error sets its own bit and keeps the others (R226). -/
theorem Block.error_raise (b : Block) (e e' : IfaceError) : (b.raise e).error e' = (b.error e' || e == e') := by
  cases e' with
  | cmd => exact b.raise_errCmd e
  | busy => exact b.raise_errBusy e
  | incomplete => exact b.raise_errIncomplete e

/-- A STATUS write clears the errors written with 1 and keeps the others (R142, R227). -/
theorem Block.error_clearErrors (b : Block) (v : Word) (e : IfaceError) :
    (b.clearErrors v).error e = (b.error e && !v.getLsbD e.statusBit) := by
  cases e with
  | cmd => exact b.clearErrors_errCmd v
  | busy => exact b.clearErrors_errBusy v
  | incomplete => exact b.clearErrors_errIncomplete v

/-! INIT, the start of COMPRESS, a round and the fold keep the error bits (R133, R135, R196, R198). -/

@[simp] theorem Block.init_error (b : Block) : b.init.error = b.error := rfl
@[simp] theorem Block.start_error (b : Block) : b.start.error = b.error := rfl
@[simp] theorem Block.engineRound_error (b : Block) : b.engineRound.error = b.error := rfl
@[simp] theorem Block.fold_error (b : Block) : b.fold.error = b.error := rfl

/-- COMPRESS's write keeps the error bits or does nothing but raise an error (R134, R224). -/
theorem Block.compressCommand_error_cases (b : Block) : b.compressCommand.error = b.error ∨ ∃ e, b.compressCommand = b.raise e := by
  obtain ⟨-, h⟩ | ⟨-, h⟩ := b.compressCommand_cases
  · exact .inl (by rw [h, Block.start_error])
  · exact .inr ⟨.incomplete, h⟩

/-- A guarded write's effect keeps the error bits or does nothing but raise an error (R225). -/
theorem IdleWrite.error_cases (hf : IdleWrite i f) (b : Block) : (f b).error = b.error ∨ ∃ e, f b = b.raise e := by
  cases hf with
  | nop => exact .inl rfl
  | init => exact .inl rfl
  | compress => exact b.compressCommand_error_cases
  | command v =>
    obtain ⟨-, h⟩ | ⟨-, h⟩ | ⟨-, h⟩ | ⟨-, h⟩ := b.command_cases v
    · exact .inl (congrArg Block.error h)
    · exact .inl ((congrArg Block.error h).trans b.init_error)
    · simpa only [h] using b.compressCommand_error_cases
    · exact .inr ⟨.cmd, h⟩
  | digest j v => exact .inl rfl
  | window j v => exact .inl rfl

/-- Everything an instruction can do to the error bits: keep them, raise one and do nothing else, or clear some by a STATUS write. -/
theorem exec_error_cases (h : exec i s = .next t) :
    t.block.error = s.block.error ∨ (∃ e, t = { s with block := s.block.raise e }) ∨
      ∃ v, i = .statusW v ∧ t.block = s.block.clearErrors v := by
  obtain ⟨-, v, d, hx, -⟩ | ⟨-, f, hf, hx⟩ | ⟨v, hi, hx⟩ | ⟨off, v, -, hx⟩ := exec_cases i s <;>
    (rw [hx] at h; injection h with h; subst h)
  case inl => exact .inl rfl
  case inr.inl =>
    cases hb : s.block.busy with
    | true => exact .inr (.inl ⟨.busy, by rw [Block.whenIdle_busy f hb]⟩)
    | false =>
      rw [Block.whenIdle_idle f hb]
      obtain hkept | ⟨e, hraise⟩ := hf.error_cases s.block
      · exact .inl hkept
      · exact .inr (.inl ⟨e, by rw [hraise]⟩)
  case inr.inr.inl => exact .inr (.inr ⟨v, hi, rfl⟩)
  case inr.inr.inr => exact .inl rfl

/-- An instruction that turns an error bit from 0 to 1 changes nothing else (R225, R226). -/
theorem exec_eq_raise (h : exec i s = .next t) (h0 : s.block.error e = false) (h1 : t.block.error e = true) :
    t = { s with block := s.block.raise e } := by
  obtain hkept | ⟨e', ht⟩ | ⟨v, -, ht⟩ := exec_error_cases h
  · rw [hkept, h0] at h1
    cases h1
  · have hbit : e' = e := by simpa [ht, Block.error_raise, h0] using h1
    rw [ht, hbit]
  · rw [ht, Block.error_clearErrors, h0] at h1
    cases h1

/-- An instruction that turns an error bit from 1 to 0 is a STATUS write of 1 to it (R142, R227). -/
theorem statusW_of_exec_error_cleared (h : exec i s = .next t) (h1 : s.block.error e = true) (h0 : t.block.error e = false) :
    ∃ v, i = .statusW v ∧ v.getLsbD e.statusBit = true := by
  obtain hkept | ⟨e', ht⟩ | ⟨v, hi, ht⟩ := exec_error_cases h
  · rw [hkept, h1] at h0
    cases h0
  · simp [ht, Block.error_raise, h1] at h0
  · exact ⟨v, hi, by simpa [ht, Block.error_clearErrors, h1] using h0⟩

/-- An access whose instruction turns an error bit from 1 to 0 is the bus write of 1 to it at STATUS. -/
theorem busWrite_of_exec_error_cleared {a : Access} (hi : accessInstr a = .ok i) (h : exec i s = .next t)
    (h1 : s.block.error e = true) (h0 : t.block.error e = false) :
    ∃ v, a = .busWrite 0x04#8 v ∧ v.getLsbD e.statusBit = true := by
  obtain ⟨v, rfl, hv⟩ := statusW_of_exec_error_cleared h h1 h0
  exact ⟨v, (toAccess_encode_of_accessInstr hi).symm, hv⟩

/-- A step that turns an error bit from 1 to 0 performs the host's STATUS write of 1 to it or a reset event (R227). -/
theorem step_error_cleared (h : step s = .next t) (h1 : s.block.error e = true) (h0 : t.block.error e = false) :
    (s.inReset = false ∧ s.engineTurn = false ∧
        ∃ v rest, s.pending = .access (.busWrite 0x04#8 v) :: rest ∧ v.getLsbD e.statusBit = true) ∨
      (s.inReset = false ∧ s.engineTurn = false ∧ ∃ rest, s.pending = .resetAssert :: rest) ∨
      (s.inReset = true ∧ ∃ rest, s.pending = .resetDeassert :: rest) := by
  have kept (hkept : t.block.error = s.block.error) : False := by
    rw [hkept, h1] at h0
    cases h0
  obtain hsame | ⟨hr, he, hp, -⟩ | ⟨hr, hp, -⟩ | ⟨-, -, -, hround⟩ | ⟨-, -, -, hfold⟩ |
    ⟨a, rest, i, s', u, hr, he, hp, hs', hi, hx, ht⟩ | ⟨off, mask, val, rest, i, s', u, -, -, -, hs', hi, hx, ht⟩ :=
    step_block_cases h
  · exact (kept (congrArg Block.error hsame)).elim
  · exact .inr (.inl ⟨hr, he, hp⟩)
  · exact .inr (.inr ⟨hr, hp⟩)
  · exact (kept (by rw [hround, Block.engineRound_error])).elim
  · exact (kept (by rw [hfold, Block.fold_error])).elim
  · rw [← hs'] at h1
    rw [ht] at h0
    obtain ⟨v, rfl, hv⟩ := busWrite_of_exec_error_cleared hi hx h1 h0
    exact .inl ⟨hr, he, v, rest, hp, hv⟩
  · rw [← hs'] at h1
    rw [ht] at h0
    obtain ⟨v, ha, -⟩ := busWrite_of_exec_error_cleared hi hx h1 h0
    simp [Access.busRead, Access.busWrite] at ha

/-- Settles O22, error by error. -/
theorem errorsArePrecise : Obligations.ErrorsArePrecise := by
  intro i s t h
  have raised (e : IfaceError) := exec_eq_raise (e := e) h
  exact ⟨raised .cmd, raised .busy, raised .incomplete⟩

/-- Settles O23, error by error. -/
theorem errorBitsAreSticky : Obligations.ErrorBitsAreSticky := by
  intro s t h
  have cleared (e : IfaceError) := step_error_cleared (e := e) h
  exact ⟨cleared .cmd, cleared .busy, cleared .incomplete⟩

/-- Settles O6: without a full window COMPRESS's write is the raise of ERR_INCOMPLETE. -/
theorem compressNeedsWholeBlock : Obligations.CompressNeedsWholeBlock := by
  refine ⟨rfl, fun s hb hv => ?_⟩
  obtain ⟨hfull, -⟩ | ⟨-, h⟩ := s.block.compressCommand_cases
  · exact absurd hfull hv
  · rw [IdleWrite.compress.exec_idle hb, h]
    rfl

/-- Settles O9: the writes of CMD, H and MSG are guarded, register by register; a STATUS write raises no bit, a reserved write
changes nothing. -/
theorem busyWritesAreDropped : Obligations.BusyWritesAreDropped := by
  refine ⟨fun v s hb => ?_, fun v s t h ht => ?_, fun off v s t h => ?_⟩
  · have digest (i : Fin 5) := (IdleWrite.digest i v).exec_busy hb
    have window (j : Fin 16) := (IdleWrite.window j v).exec_busy hb
    exact ⟨IdleWrite.nop.exec_busy hb, IdleWrite.init.exec_busy hb, IdleWrite.compress.exec_busy hb,
      (IdleWrite.command v).exec_busy hb, digest 0, digest 1, digest 2, digest 3, digest 4, window 0, window 1, window 2, window 3,
      window 4, window 5, window 6, window 7, window 8, window 9, window 10, window 11, window 12, window 13, window 14, window 15⟩
  · obtain rfl := (onBlock_next_iff fun b => b.clearErrors v).mp h
    rw [Block.clearErrors_errBusy, Bool.and_eq_true] at ht
    exact ht.1
  · obtain rfl := (onBlock_next_iff id).mp h
    rfl

/-- Settles O48, with one lemma for each clause: the end of a run, what it asks of the block, and the engine's turn. -/
theorem idleBlockHoldsItsState : Obligations.IdleBlockHoldsItsState := by
  obtain ⟨hturn, -⟩ := stepRunsEngineOnItsTurn
  refine ⟨fun s => step_of_isFinal, fun s hb => ?_, fun s _ hb hp => (hturn s).mpr ⟨hb, .inr (.inr hp)⟩⟩
  rw [State.isFinal, hb, Bool.not_true, Bool.and_false]

end Sys2Proof.Machine
end

section
/-! PROOFS. After the fold the block must be loaded again: without a MSG write MVALID stays 0 and no COMPRESS starts
(spec/70_reset_and_hazards.md R257, spec/41_commands.md R134). -/

namespace Sys2Proof.Machine

variable {i : Instr} {f : Block → Block} {b c : Block} {s t u : State}

theorem Block.AgreesButErrors.mvalid_eq (hc : b.AgreesButErrors c) : c.mvalid = b.mvalid := by rw [hc]

/-- Idle with no window word valid: the block as the fold leaves it (R198). -/
structure Block.Emptied (b : Block) : Prop where
  idle : b.busy = false
  mvalid : b.mvalid = 0#16

theorem Block.fold_emptied (b : Block) : b.fold.Emptied := ⟨rfl, rfl⟩

theorem Block.Emptied.mvalid_ne_full (hb : b.Emptied) : b.mvalid ≠ mvalidFull := by
  rw [hb.mvalid]
  decide

/-- COMPRESS's write leaves MVALID alone, accepted or not (R135, R224). -/
theorem Block.compressCommand_mvalid (b : Block) : b.compressCommand.mvalid = b.mvalid := by
  obtain ⟨-, h⟩ | ⟨-, h⟩ := b.compressCommand_cases <;> simp [h]

/-- Of the guarded writes only those of MSG change MVALID (R24). -/
theorem IdleWrite.mvalid_eq (hf : IdleWrite i f) (hi : ∀ (j : Fin 16) (v : Word), i ≠ decodeWrite (msgOffset j) v) (b : Block) :
    (f b).mvalid = b.mvalid := by
  cases hf with
  | nop => rfl
  | init => rfl
  | compress => exact b.compressCommand_mvalid
  | command v =>
    obtain ⟨-, h⟩ | ⟨-, h⟩ | ⟨-, h⟩ | ⟨-, h⟩ := b.command_cases v
    · exact congrArg Block.mvalid h
    · exact (congrArg Block.mvalid h).trans b.init_mvalid
    · exact (congrArg Block.mvalid h).trans b.compressCommand_mvalid
    · exact (congrArg Block.mvalid h).trans (b.raise_mvalid .cmd)
  | digest j v => rfl
  | window j v => exact absurd rfl (hi j v)

/-- A guarded write that is no MSG write keeps the block emptied: to start a COMPRESS the window would have to be full (R134). -/
theorem IdleWrite.emptied (hf : IdleWrite i f) (hi : ∀ (j : Fin 16) (v : Word), i ≠ decodeWrite (msgOffset j) v)
    (hb : b.Emptied) : (f b).Emptied := by
  have hbusy : (f b).busy = b.busy := not_not.mp fun hne => hb.mvalid_ne_full (hf.toAccess_of_busy_ne hne).1
  exact ⟨hbusy.trans hb.idle, (hf.mvalid_eq hi b).trans hb.mvalid⟩

/-- An instruction that is no MSG write keeps the block emptied. -/
theorem exec_emptied (h : exec i s = .next t) (hi : ∀ (j : Fin 16) (v : Word), i ≠ decodeWrite (msgOffset j) v)
    (hs : s.block.Emptied) : t.block.Emptied := by
  obtain hagree | ⟨-, f, hf, ht⟩ := exec_block_cases h
  · exact ⟨hagree.busy_eq.trans hs.idle, hagree.mvalid_eq.trans hs.mvalid⟩
  · exact ht ▸ hf.emptied hi hs

/-- After an instruction that answers next, the others run from its state. -/
theorem execAll_cons (h : exec i s = .next t) (is : List Instr) : execAll (i :: is) s = execAll is t := by
  simp only [execAll, h]

/-- Instructions without a MSG write among them keep the block emptied. -/
theorem execAll_emptied {is : List Instr} (h : execAll is s = .next u)
    (his : ∀ i ∈ is, ∀ (j : Fin 16) (v : Word), i ≠ decodeWrite (msgOffset j) v) (hs : s.block.Emptied) : u.block.Emptied := by
  induction is generalizing s with
  | nil =>
    injection h with h
    exact h ▸ hs
  | cons i is ih =>
    obtain ⟨hi, hrest⟩ := List.forall_mem_cons.mp his
    obtain ⟨t, ht⟩ := exec_answers_next i s
    rw [execAll_cons ht] at h
    exact ih h hrest (exec_emptied ht hi hs)

/-- At the engine's turn with RND = 80 the step is the fold (R198). -/
theorem block_of_step_fold (hr : s.inReset = false) (he : s.engineTurn = true) (hrnd : s.block.rnd = 80#7)
    (h : step s = .next t) : t.block = s.block.fold := by
  obtain ⟨-, hstep⟩ := stepRunsEngineOnItsTurn
  have hfold := engineStep_fold (s := { s with schedule := s.schedule.tail }) hrnd
  rw [hstep s hr he, hfold] at h
  injection h with h
  rw [← h]

/-- Settles O60: the fold empties the window, the instructions after it leave it emptied, and COMPRESS needs it full. -/
theorem blockMustBeReloaded : Obligations.BlockMustBeReloaded := by
  intro s t u is hr he hrnd hstep his hrun
  have ht : t.block.Emptied := block_of_step_fold hr he hrnd hstep ▸ s.block.fold_emptied
  have hu : u.block.Emptied := execAll_emptied hrun his ht
  obtain ⟨-, hcompress⟩ := compressNeedsWholeBlock
  exact hcompress u hu.idle hu.mvalid_ne_full

end Sys2Proof.Machine
end

section
/-! PROOFS. The edges of the reset input, and that in reset no access is admitted (spec/70_reset_and_hazards.md R250). -/

namespace Sys2Proof.Machine

variable {s : State} {rest : List HostItem}

/-- While reset is asserted the step is that of the reset input (R250). -/
theorem step_inReset (hr : s.inReset = true) : step s = resetStep s := by
  simp [step, hr]

/-- A deassertion in reset loads the reset values and ends the reset (R250). -/
theorem step_resetDeassert (hr : s.inReset = true) (hp : s.pending = .resetDeassert :: rest) :
    step s = .next { s with block := State.reset.block, inReset := false, pending := rest } := by
  simp only [step_inReset hr, resetStep, hp]
  rfl

/-- An assertion at the host's turn loads the reset values and begins the reset (R250, notes/assumptions/7.md). -/
theorem step_resetAssert (hr : s.inReset = false) (he : s.engineTurn = false)
    (hp : s.pending = .resetAssert :: rest) :
    step s = .next { s.useTurn with block := State.reset.block, inReset := true, pending := rest } := by
  simp only [step_hostTurn hr he, hostStep, State.useTurn_pending, hp]
  rfl

/-- Settles O2: the pulse is an assertion and a deassertion; in reset, the head of the pending list decides. -/
theorem resetAbandonsCompress : Obligations.ResetAbandonsCompress := by
  refine ⟨fun s rest hr he hp => ?_, fun s rest => step_resetDeassert, fun s a rest hr hp => ?_,
    fun s off mask val rest hr hp => ?_, fun s hr hp => ?_⟩
  · have hdeassert := step_resetDeassert (rest := rest)
      (s := { s.useTurn with block := State.reset.block, inReset := true, pending := .resetDeassert :: rest }) rfl rfl
    rw [steps_succ 1 (step_resetAssert hr he hp), steps_succ 0 hdeassert]
    rfl
  · simp only [step_inReset hr, resetStep, hp]
  · simp only [step_inReset hr, resetStep, hp]
  · simp only [step_inReset hr, resetStep, hp]

end Sys2Proof.Machine
end

section
/-! PROOFS. The MSG reads while busy, and a read after a write of the same register (spec/70_reset_and_hazards.md R253, R255). -/

namespace Sys2Proof.Machine

variable {s : State}

/-- While busy a window read answers the next free draw (R139, R255). -/
theorem readWindow_busy (j : Fin 16) (hb : s.block.busy = true) :
    readWindow j s = .next { s with rdata := Config.freeDraw s.draws, draws := s.draws + 1 } := by
  simp [readWindow, respondFree, hb]

/-- Settles O13, slot by slot. -/
theorem windowReadsWhenBusyAreFree : Obligations.WindowReadsWhenBusyAreFree := by
  intro s hb
  have busy (j : Fin 16) := readWindow_busy j hb
  exact ⟨busy 0, busy 1, busy 2, busy 3, busy 4, busy 5, busy 6, busy 7, busy 8, busy 9, busy 10, busy 11, busy 12, busy 13,
    busy 14, busy 15⟩

/-- The read row at the offset of H[i] reads H[i] (R52, R137). -/
theorem exec_decodeRead_hOffset (i : Fin 5) (s : State) : exec (decodeRead (hOffset i)) s = readDigest i s := by
  fin_cases i <;> rfl

/-- The read row at the offset of MSG[j] reads MSG[j] (R52, R139). -/
theorem exec_decodeRead_msgOffset (j : Fin 16) (s : State) : exec (decodeRead (msgOffset j)) s = readWindow j s := by
  fin_cases j <;> rfl

/-- Settles O59: the write sets the register and leaves the block idle, so that the read answers it. -/
theorem readAfterWriteReturnsValue : Obligations.ReadAfterWriteReturnsValue := by
  refine fun v s hb => ⟨fun i => ?_, fun j => ?_⟩
  · have hread := exec_decodeRead_hOffset i { s with block := s.block.setDigest i v }
    exact ⟨_, (execAll_cons ((IdleWrite.digest i v).exec_idle hb) _).trans (execAll_cons hread []),
      Vector.getElem_set_self i.isLt⟩
  · have hread := (exec_decodeRead_msgOffset j { s with block := s.block.setWindow j v }).trans (readWindow_idle j hb)
    exact ⟨_, (execAll_cons ((IdleWrite.window j v).exec_idle hb) _).trans (execAll_cons hread []),
      Vector.getElem_set_self j.isLt⟩

end Sys2Proof.Machine
end
